-- ==== Sys2Proof/Word.lean ====
section
/-! DEFINITION. The word type: the block handles nothing wider than a byte (20_memory.md R55). -/

namespace Sys2Proof

/-- A byte: an unsigned integer 0..255 (00_scope.md R11, decision D2). -/
abbrev Byte := BitVec 8

end Sys2Proof
end

