-- ==== Sys2Proof/Config.lean ====
section
/-! DEFINITION. The implementation parameters of 00_scope.md R9. The platform parameters are a record
that State carries unchanged, so that every statement over all states holds for all their values. -/

namespace Sys2Proof

/-- The OPEN platform parameters of R9. `none` is "unbounded". -/
structure Platform where
  /-- P_RX_CAP_MAX: the largest receive-buffer capacity in bytes (decision D10). -/
  rx_cap_max : Option Nat
  /-- P_TX_CAP_MAX: the largest transmit-buffer capacity in bytes (decision D10). -/
  tx_cap_max : Option Nat
  /-- P_POS_WIDTH: the width of the accessors' `pos`; no rule reads it, the model accepts every
  natural (decision D11). -/
  pos_width : Option Nat
  /-- P_TX_SETTLE_DELAY: the wait before a response; it changes no state (R183, decision D17). -/
  tx_settle_delay : Nat
deriving DecidableEq, Repr

/-- The platform State.reset starts with. DESIGN CHOICE (log entry 5), unsafe: the spec leaves all
four open. -/
def Config.platform : Platform := ⟨none, none, none, 0⟩

/-- P_NODE_ADDR_INIT at State.reset. DESIGN CHOICE (log entry 6), unsafe: a parameter of the spec. -/
def Config.nodeAddrInit : Nat := 0

/-- P_INPUT_BITS_INIT at State.reset. DESIGN CHOICE (log entry 6), unsafe: a parameter of the spec. -/
def Config.inputBitsInit : Nat := 0

/-- P_OUTPUT_BITS_INIT at State.reset. DESIGN CHOICE (log entry 6), unsafe: a parameter of the spec. -/
def Config.outputBitsInit : Nat := 0

/-- What an unknown transport delivers at its k-th delivery during PROCESS: any bytes (decisions D16, D30;
log entry 3). A free value: nothing constrains it. -/
opaque Config.delivery : Nat → List Byte

end Sys2Proof
end

