-- ==== Sys2Proof/Syntax.lean ====
section
/-! DEFINITION. The names and the instruction set: one constructor of Instr per row of
spec/opcode_table.json, and the encoded forms instructions are read from. -/

namespace Sys2Proof

/-- The decoder's framing state (10_state.md R26). The tags have no numeric value (decision D24). -/
inductive DecState where
  /-- hunting for the first 0xFF; the initial state -/
  | scanPreamble1
  /-- one 0xFF seen -/
  | scanPreamble2
  /-- two 0xFF seen, expecting STX -/
  | scanPreamble3
  /-- expecting the address byte -/
  | readAddress
  /-- address matched, expecting the command byte -/
  | readCommand
  /-- another node's address, the command byte is skipped -/
  | ignoreCommand
  /-- assembling the SET payload -/
  | readData
  /-- an ESC was seen in the SET payload -/
  | readEscapedData
  /-- skipping a foreign payload up to ETX -/
  | ignoreData
  /-- an ESC was seen in a foreign payload -/
  | ignoreEscapedData
deriving DecidableEq, Repr

/-- The kind a decoder step and PROCESS return (10_state.md R29). -/
inductive CommandKind where
  | noop | init | set | get | poll
deriving DecidableEq, Repr

/-- The four commands of a frame's CMD byte (30_encoding.md R82). -/
inductive Cmd where
  | init | set | get | poll
deriving DecidableEq, Repr

/-- The error taxonomy of 60_exceptions.md R210: labels for a reader, held in no state (R211). -/
inductive ErrorClass where
  /-- E_NOISE, framing noise -/
  | noise
  /-- E_FOREIGN, address mismatch -/
  | foreign
  /-- E_OVERLONG, more payload bytes than rx_cap -/
  | overlong
  /-- E_OOB, an accessor index at or beyond capacity -/
  | oob
deriving DecidableEq, Repr

/-- The instruction set: the rows of spec/opcode_table.json, in the table's order. -/
inductive Instr where
  /-- PRE: the byte 0xFF received (R80). -/
  | pre
  /-- STX: the byte 0x02 received (R80). -/
  | stx
  /-- ETX: the byte 0x03 received (R80). -/
  | etx
  /-- ESC: the byte 0x10 received (R83). -/
  | esc
  /-- CMD_INIT: the byte 0x49 received (R82). -/
  | cmdInit
  /-- CMD_SET: the byte 0x54 received (R82). -/
  | cmdSet
  /-- CMD_GET: the byte 0x52 received (R82). -/
  | cmdGet
  /-- CMD_POLL: the byte 0x50 received (R82). -/
  | cmdPoll
  /-- ADDR: an address byte received (R81). -/
  | addr (b : Byte)
  /-- FRAME: a whole frame received, its payload before escaping (R80). -/
  | frame (a : Byte) (cmd : Cmd) (payload : List Byte)
  | decSp1Ff
  | decSp1Any (b : Byte)
  | decSp2Ff
  | decSp2Any (b : Byte)
  | decSp3Stx
  | decSp3Any (b : Byte)
  | decRaMatch (b : Byte)
  | decRaForeign (b : Byte)
  | decRaAny (b : Byte)
  | decRcSet
  | decRcPoll
  | decRcAny (b : Byte)
  | decIcAny (b : Byte)
  | decRdEsc
  | decRdEtx
  | decRdAny (b : Byte)
  | decReAny (b : Byte)
  | decIdEsc
  | decIdEtx
  | decIdAny (b : Byte)
  | decIeAny (b : Byte)
  /-- RESET(addr, input_bits, output_bits) (R240). -/
  | reset (addr inputBits outputBits : Nat)
  /-- SET_ADDRESS(addr) (R131). -/
  | setAddress (addr : Nat)
  /-- RESIZE(input_bits, output_bits) (R129). -/
  | resize (inputBits outputBits : Nat)
  /-- GET_BIT(pos) (R122). -/
  | getBit (pos : Nat)
  /-- GET_BYTE(pos) (R123). -/
  | getByte (pos : Nat)
  /-- SET_BIT(pos, value) (R124). -/
  | setBit (pos : Nat) (value : Bool)
  /-- SET_BYTE(pos, value) (R126). -/
  | setByte (pos : Nat) (value : Byte)
  /-- PROCESS() (R190). -/
  | process
  /-- DECODE_STEP(b), internal (R140). -/
  | decodeStep (b : Byte)
  /-- ENCODE(), internal (R180). -/
  | encode
deriving DecidableEq, Repr

/-- The names the operations are selected by (30_encoding.md R100). -/
inductive OpName where
  | reset | setAddress | resize | getBit | getByte | setBit | setByte | process | decodeStep | encode
deriving DecidableEq, Repr

/-- One operand of a request (30_encoding.md R101). -/
inductive Operand where
  | nat (n : Nat)
  | byte (b : Byte)
  | bool (v : Bool)
deriving DecidableEq, Repr

/-- An operation asked for by name, with its operands in order (R100, R102: `OP(args)`). -/
structure Request where
  op : OpName
  args : List Operand
deriving DecidableEq, Repr

/-- The encoded forms of an instruction: the wire format (30_encoding.md section 1), the decode table's
cells (41_frame_decoder.md R152) and the operation interface (30_encoding.md section 4). -/
inductive Code where
  /-- one byte on the wire, at the place in the frame grammar where the decoder stands (R86) -/
  | wireByte (place : DecState) (b : Byte)
  /-- the bytes of one frame -/
  | wireFrame (bytes : List Byte)
  /-- the cell of the decode table for a node address, a decoder state and a byte -/
  | cell (node : Nat) (st : DecState) (b : Byte)
  /-- an operation by name -/
  | request (r : Request)
deriving DecidableEq, Repr

end Sys2Proof
end

