-- ==== Sys2Proof/Machine/Wire.lean ====
section
/-! DEFINITION. The wire format's constants (00_scope.md R8) and byte forms (30_encoding.md R80 to R83). -/

namespace Sys2Proof.Wire

/-- The preamble mark. -/
abbrev PRE : Byte := 0xFF#8
/-- Start of text. -/
abbrev STX : Byte := 0x02#8
/-- End of text, the frame terminator. -/
abbrev ETX : Byte := 0x03#8
/-- Escape. -/
abbrev ESC : Byte := 0x10#8
/-- The character 'A', base of the address byte. -/
abbrev CH_A : Byte := 0x41#8
/-- 'T'. -/
abbrev CMD_SET : Byte := 0x54#8
/-- 'R'. -/
abbrev CMD_GET : Byte := 0x52#8
/-- 'P'. -/
abbrev CMD_POLL : Byte := 0x50#8
/-- 'I'. PRESUMED (log entry 27): the spec marks the value as general knowledge; no rule rests on it. -/
abbrev CMD_INIT : Byte := 0x49#8

/-- The largest node address (decision D4). -/
abbrev NODE_MAX : Nat := 190

/-- The number an address byte stands for in R81 and R145: `0x41 + node_address`, as a natural. -/
def addrNat (node : Nat) : Nat := CH_A.toNat + node

/-- The address byte of a node (R81); it fits a byte for the nodes 0..190. -/
def addrByte (node : Nat) : Byte := BitVec.ofNat 8 (addrNat node)

/-- The command's byte (R82). -/
def cmdByte : Cmd → Byte
  | .init => CMD_INIT
  | .set => CMD_SET
  | .get => CMD_GET
  | .poll => CMD_POLL

/-- Only SET and GET carry a payload (R82). -/
def carriesPayload : Cmd → Bool
  | .set | .get => true
  | .init | .poll => false

/-- A payload byte as sent (R83). -/
def escapeByte (p : Byte) : List Byte := if p = ETX ∨ p = ESC then [ESC, p] else [p]

/-- A payload as sent (R83). -/
def escape (payload : List Byte) : List Byte := payload.flatMap escapeByte

/-- A frame's bytes in wire order (R80). -/
def frameBytes (a cmd : Byte) (payload : List Byte) : List Byte :=
  [PRE, PRE, STX, a, cmd] ++ escape payload ++ [ETX]

end Sys2Proof.Wire

namespace Sys2Proof

/-- A byte is in the address range 0x41..0xFF (30_encoding.md R81, R89). -/
def isAddrByte (b : Byte) : Bool := decide (Wire.CH_A.toNat ≤ b.toNat)

end Sys2Proof
end

