-- ==== Sys2Proof/WellFormed.lean ====
section
/-! DEFINITION. Which instructions are well formed: what the rules say of an operand's range, and for a
decode row, that its byte belongs to its class (41_frame_decoder.md R152). -/

namespace Sys2Proof

/-- The well-formed instructions. -/
def Instr.wf : Instr → Bool
  | .addr b => isAddrByte b
  | .frame a c p => isAddrByte a && (Wire.carriesPayload c || p.isEmpty)
  | .decSp1Any b => b != Wire.PRE
  | .decSp2Any b => b != Wire.PRE
  | .decSp3Any b => b != Wire.STX
  | .decRaMatch b => isAddrByte b
  | .decRaForeign b => isAddrByte b
  | .decRaAny b => !isAddrByte b
  | .decRcAny b => b != Wire.CMD_SET && b != Wire.CMD_POLL
  | .decRdAny b => b != Wire.ESC && b != Wire.ETX
  | .decIdAny b => b != Wire.ESC && b != Wire.ETX
  | .reset a _ _ => decide (a ≤ Wire.NODE_MAX)
  | .setAddress a => decide (a ≤ Wire.NODE_MAX)
  | .pre | .stx | .etx | .esc | .cmdInit | .cmdSet | .cmdGet | .cmdPoll => true
  | .decSp1Ff | .decSp2Ff | .decSp3Stx | .decRcSet | .decRcPoll => true
  | .decIcAny _ | .decRdEsc | .decRdEtx | .decReAny _ | .decIdEsc | .decIdEtx | .decIeAny _ => true
  | .resize _ _ | .getBit _ | .getByte _ | .setBit _ _ | .setByte _ _ => true
  | .process | .decodeStep _ | .encode => true

end Sys2Proof
end

