-- ==== Sys2Proof/Decode.lean ====
section
/-! DEFINITION. The decoders of the encoded forms, total and rejecting by name, and the encoder after
them (30_encoding.md; 41_frame_decoder.md R152). -/

namespace Sys2Proof

/-- Why a frame or a request is not one the spec's encoding tables give. A byte is never rejected: "No
byte value is illegal on the wire" (30_encoding.md R87). -/
inductive DecodeError where
  /-- no byte to read -/
  | noByte
  /-- the bytes end before the command byte -/
  | shortFrame
  /-- the first two bytes are not 0xFF -/
  | badPreamble
  /-- the third byte is not STX -/
  | badStx
  /-- the address byte is below 0x41 (R89) -/
  | malformedAddress
  /-- the CMD byte is none of the four codes (R82) -/
  | notACommand
  /-- a payload on INIT or POLL (R82) -/
  | payloadNotAllowed
  /-- no unshielded ETX (R85) -/
  | unterminated
  /-- bytes left after the frame's ETX -/
  | trailingBytes
  /-- the operands do not fit the operation's name (R100) -/
  | wrongOperands (op : OpName)
deriving DecidableEq, Repr

/-- A wire byte read without its place in a frame: the fixed codes of R80, R82 and R83 first, then an
address byte (R81), and any other byte as the byte DECODE_STEP takes (R140). DESIGN CHOICE (log entry 13). -/
def decodeWireByte (b : Byte) : Instr :=
  if b = Wire.PRE then .pre
  else if b = Wire.STX then .stx
  else if b = Wire.ETX then .etx
  else if b = Wire.ESC then .esc
  else if b = Wire.CMD_INIT then .cmdInit
  else if b = Wire.CMD_SET then .cmdSet
  else if b = Wire.CMD_GET then .cmdGet
  else if b = Wire.CMD_POLL then .cmdPoll
  else if isAddrByte b then .addr b
  else .decodeStep b

/-- A wire byte read at its place: "the meaning of a received byte depends on dec_state alone" (R86). A
byte that is no field of the frame grammar there is the byte DECODE_STEP takes. -/
def decodeWireByteAt (place : DecState) (b : Byte) : Instr :=
  match place with
  | .scanPreamble1 | .scanPreamble2 => if b = Wire.PRE then .pre else .decodeStep b
  | .scanPreamble3 => if b = Wire.STX then .stx else .decodeStep b
  | .readAddress => if isAddrByte b then .addr b else .decodeStep b
  | .readCommand | .ignoreCommand =>
    if b = Wire.CMD_INIT then .cmdInit
    else if b = Wire.CMD_SET then .cmdSet
    else if b = Wire.CMD_GET then .cmdGet
    else if b = Wire.CMD_POLL then .cmdPoll
    else .decodeStep b
  | .readData | .ignoreData =>
    if b = Wire.ESC then .esc else if b = Wire.ETX then .etx else .decodeStep b
  | .readEscapedData | .ignoreEscapedData => .decodeStep b

/-- The row of the decode table that applies to a byte, rows tried top to bottom (R152). -/
def decodeCell (node : Nat) (st : DecState) (b : Byte) : Instr :=
  match st with
  | .scanPreamble1 => if b = Wire.PRE then .decSp1Ff else .decSp1Any b
  | .scanPreamble2 => if b = Wire.PRE then .decSp2Ff else .decSp2Any b
  | .scanPreamble3 => if b = Wire.STX then .decSp3Stx else .decSp3Any b
  | .readAddress =>
    if b.toNat = Wire.addrNat node then .decRaMatch b
    else if isAddrByte b then .decRaForeign b
    else .decRaAny b
  | .readCommand =>
    if b = Wire.CMD_SET then .decRcSet else if b = Wire.CMD_POLL then .decRcPoll else .decRcAny b
  | .ignoreCommand => .decIcAny b
  | .readData => if b = Wire.ESC then .decRdEsc else if b = Wire.ETX then .decRdEtx else .decRdAny b
  | .readEscapedData => .decReAny b
  | .ignoreData => if b = Wire.ESC then .decIdEsc else if b = Wire.ETX then .decIdEtx else .decIdAny b
  | .ignoreEscapedData => .decIeAny b

/-- The command a CMD byte stands for (R82). -/
def decodeCmd (b : Byte) : Option Cmd :=
  if b = Wire.CMD_INIT then some .init
  else if b = Wire.CMD_SET then some .set
  else if b = Wire.CMD_GET then some .get
  else if b = Wire.CMD_POLL then some .poll
  else none

/-- The payload up to the first ETX not shielded by an ESC, escapes removed, and the bytes after that
ETX (R84, R85). `shielded` says that the byte before was an ESC. -/
def unescape (shielded : Bool) : List Byte → Option (List Byte × List Byte)
  | [] => none
  | b :: bs =>
    if shielded then (unescape false bs).map fun r => (b :: r.1, r.2)
    else if b = Wire.ESC then unescape true bs
    else if b = Wire.ETX then some ([], bs)
    else (unescape false bs).map fun r => (b :: r.1, r.2)

/-- One frame read off the front of a byte list (R80). -/
def decodeFrame : List Byte → Except DecodeError (Instr × List Byte)
  | p1 :: p2 :: stx :: a :: c :: body =>
    if p1 ≠ Wire.PRE ∨ p2 ≠ Wire.PRE then .error .badPreamble
    else if stx ≠ Wire.STX then .error .badStx
    else if !isAddrByte a then .error .malformedAddress
    else match decodeCmd c with
      | none => .error .notACommand
      | some cmd =>
        match unescape false body with
        | none => .error .unterminated
        | some (payload, rest) =>
          if Wire.carriesPayload cmd || payload.isEmpty then .ok (.frame a cmd payload, rest)
          else .error .payloadNotAllowed
  | _ => .error .shortFrame

/-- An operation by its name and operands (R100, R101). -/
def decodeRequest (r : Request) : Except DecodeError Instr :=
  match r.op, r.args with
  | .reset, [.nat a, .nat i, .nat o] => .ok (.reset a i o)
  | .setAddress, [.nat a] => .ok (.setAddress a)
  | .resize, [.nat i, .nat o] => .ok (.resize i o)
  | .getBit, [.nat p] => .ok (.getBit p)
  | .getByte, [.nat p] => .ok (.getByte p)
  | .setBit, [.nat p, .bool v] => .ok (.setBit p v)
  | .setByte, [.nat p, .byte v] => .ok (.setByte p v)
  | .process, [] => .ok .process
  | .decodeStep, [.byte b] => .ok (.decodeStep b)
  | .encode, [] => .ok .encode
  | op, _ => .error (.wrongOperands op)

/-- The internal operations, which the host cannot issue (R100, R220, decision D18). -/
def OpName.isInternal : OpName → Bool
  | .decodeStep | .encode => true
  | .reset | .setAddress | .resize | .getBit | .getByte | .setBit | .setByte | .process => false

/-- The decoder of every encoded form. -/
def decode : Code → Except DecodeError Instr
  | .wireByte place b => .ok (decodeWireByteAt place b)
  | .wireFrame bytes =>
    match decodeFrame bytes with
    | .ok (i, []) => .ok i
    | .ok (_, _ :: _) => .error .trailingBytes
    | .error e => .error e
  | .cell node st b => .ok (decodeCell node st b)
  | .request r => decodeRequest r

/-- The byte reader the machine's fetch uses: one byte is one instruction on the wire (R67). -/
def decodeBytes : List Byte → Except DecodeError (Instr × List Byte)
  | [] => .error .noByte
  | b :: rest => .ok (decodeWireByte b, rest)

/-- The bytes of a table word: the first byte is bits 7..0, the next bits 15..8, and so on. -/
def wordBytes (nbits w : Nat) : List Byte :=
  (List.range (max 1 ((nbits + 7) / 8))).map fun k => BitVec.ofNat 8 (w / 256 ^ k)

/-- The instruction the decoder reads from a table word. The operations have no binary code (N7); a
decode row's byte is read as the wire byte it is (log entry 13). -/
def decodeTableWord (nbits w : Nat) : Option Instr :=
  match decodeBytes (wordBytes nbits w) with
  | .ok (i, _) => some i
  | .error _ => none

/-- The encoder: an instruction's words, from the encoding tables of R80 to R83, R152 and R100. A foreign
row is written for the lowest node whose address byte it is not. -/
def encode : Instr → Code
  | .pre => .wireByte .scanPreamble1 Wire.PRE
  | .stx => .wireByte .scanPreamble3 Wire.STX
  | .etx => .wireByte .readData Wire.ETX
  | .esc => .wireByte .readData Wire.ESC
  | .cmdInit => .wireByte .readCommand Wire.CMD_INIT
  | .cmdSet => .wireByte .readCommand Wire.CMD_SET
  | .cmdGet => .wireByte .readCommand Wire.CMD_GET
  | .cmdPoll => .wireByte .readCommand Wire.CMD_POLL
  | .addr b => .wireByte .readAddress b
  | .frame a c p => .wireFrame (Wire.frameBytes a (Wire.cmdByte c) p)
  | .decSp1Ff => .cell 0 .scanPreamble1 Wire.PRE
  | .decSp1Any b => .cell 0 .scanPreamble1 b
  | .decSp2Ff => .cell 0 .scanPreamble2 Wire.PRE
  | .decSp2Any b => .cell 0 .scanPreamble2 b
  | .decSp3Stx => .cell 0 .scanPreamble3 Wire.STX
  | .decSp3Any b => .cell 0 .scanPreamble3 b
  | .decRaMatch b => .cell (b.toNat - Wire.CH_A.toNat) .readAddress b
  | .decRaForeign b => .cell (if b = Wire.CH_A then 1 else 0) .readAddress b
  | .decRaAny b => .cell 0 .readAddress b
  | .decRcSet => .cell 0 .readCommand Wire.CMD_SET
  | .decRcPoll => .cell 0 .readCommand Wire.CMD_POLL
  | .decRcAny b => .cell 0 .readCommand b
  | .decIcAny b => .cell 0 .ignoreCommand b
  | .decRdEsc => .cell 0 .readData Wire.ESC
  | .decRdEtx => .cell 0 .readData Wire.ETX
  | .decRdAny b => .cell 0 .readData b
  | .decReAny b => .cell 0 .readEscapedData b
  | .decIdEsc => .cell 0 .ignoreData Wire.ESC
  | .decIdEtx => .cell 0 .ignoreData Wire.ETX
  | .decIdAny b => .cell 0 .ignoreData b
  | .decIeAny b => .cell 0 .ignoreEscapedData b
  | .reset a i o => .request ⟨.reset, [.nat a, .nat i, .nat o]⟩
  | .setAddress a => .request ⟨.setAddress, [.nat a]⟩
  | .resize i o => .request ⟨.resize, [.nat i, .nat o]⟩
  | .getBit p => .request ⟨.getBit, [.nat p]⟩
  | .getByte p => .request ⟨.getByte, [.nat p]⟩
  | .setBit p v => .request ⟨.setBit, [.nat p, .bool v]⟩
  | .setByte p v => .request ⟨.setByte, [.nat p, .byte v]⟩
  | .process => .request ⟨.process, []⟩
  | .decodeStep b => .request ⟨.decodeStep, [.byte b]⟩
  | .encode => .request ⟨.encode, []⟩

end Sys2Proof
end

