-- ==== Sys2Proof/Machine/Operands.lean ====
section
/-! DEFINITION. Operand assembly (30_encoding.md R101): bit counts, bit addresses, bits of a byte. -/

namespace Sys2Proof.Machine

/-- A capacity in bytes from a bit count: `ceil(bits / 8)` (00_scope.md R10). -/
def capOf (bits : Nat) : Nat := (bits + 7) / 8

/-- The byte a bit address names (20_memory.md R53). -/
def byteIndex (pos : Nat) : Nat := pos / 8

/-- The bit of that byte a bit address names (20_memory.md R53). -/
def bitIndex (pos : Nat) : Nat := pos % 8

/-- `BitOf(b, k)` (40_buffer_pair.md R121, decision D3). -/
def bitOf (b : Byte) (k : Nat) : Bool := b.toNat / 2 ^ k % 2 == 1

/-- The byte `2^k`. -/
def bitMask (k : Nat) : Byte := BitVec.ofNat 8 (2 ^ k)

/-- `WithBit(b, k, v)` (40_buffer_pair.md R121). -/
def withBit (b : Byte) (k : Nat) (v : Bool) : Byte :=
  if v then b ||| bitMask k else b &&& (0xFF#8 ^^^ bitMask k)

/-- A capacity is within a platform maximum, `none` being unbounded (R9, decision D10). -/
def capFits (max : Option Nat) (cap : Nat) : Bool :=
  match max with
  | none => true
  | some m => decide (cap ≤ m)

end Sys2Proof.Machine
end

