-- ==== Sys2Proof/Machine/State.lean ====
section
/-! DEFINITION. The state (10_state.md R20, R34) as plain data, the reasons a step can stop, and the
state after creation (70_reset_and_hazards.md R240, R241). -/

namespace Sys2Proof.Machine

/-- A buffer's bytes: (address, byte) pairs, addresses strictly rising, no byte equal to what an unlisted
address reads as (Memory.wf in Machine/Ops.lean). -/
abbrev Memory := List Host.Cell

/-- What an unlisted address of a buffer reads as: 0x00, the creation value of every buffer byte and the
fill of a growth (10_state.md R31, R32; 40_buffer_pair.md R129). -/
def Memory.unlisted : Byte := 0x00#8

/-- The value an operation returns (10_state.md R29, R30; 30_encoding.md R100). -/
inductive Result where
  /-- it returns nothing -/
  | none
  | bool (v : Bool)
  | byte (b : Byte)
  | kind (k : CommandKind)
deriving DecidableEq, Repr

/-- A move of the host or of the transport between calls: a line of the notation of R102. -/
inductive Move where
  /-- the host issues an operation (R100, R227) -/
  | call (r : Request)
  /-- FEED: the transport has received bytes (R102) -/
  | feed (bytes : List Byte)
deriving DecidableEq, Repr

/-- What the transport delivers during PROCESS once the listed arrivals are used up, without end (D16,
D30, R260). Log entry 3. -/
inductive Supply where
  /-- nothing more arrives -/
  | silent
  /-- the same bytes at the top of every iteration, for ever -/
  | steady (bytes : List Byte)
  /-- any bytes at every iteration, for ever: the free values Config.delivery from the k-th on -/
  | unknown (k : Nat)
deriving DecidableEq, Repr

/-- The machine. The first eight fields are the block's state tuple (R20), the next two its environment
(R34); the last six are the model's own (INVENTORY.md, log entries 2, 3, 4, 5, 18). -/
structure State where
  /-- the node's address, 0..190 (R23) -/
  node_address : Nat
  /-- receive-buffer capacity in bytes (R24) -/
  rx_cap : Nat
  /-- transmit-buffer capacity in bytes (R25) -/
  tx_cap : Nat
  /-- RX (R31) -/
  rx : Memory
  /-- TX (R32) -/
  tx : Memory
  /-- the decoder's framing state (R26) -/
  dec_state : DecState
  /-- the payload cursor (R27) -/
  rx_index : Nat
  /-- a PROCESS is in progress (R33) -/
  proc_active : Bool
  /-- bytes received and not yet read, oldest first (R34, R67) -/
  in_stream : List Byte
  /-- bytes written, in write order (R34, R68) -/
  out_stream : List Byte
  /-- how many bytes of out_stream the last Flush reported sent (R12, R63, R68) -/
  flushed : Nat
  /-- the value the last operation, or the last decoder step of a running PROCESS, returned -/
  result : Result
  /-- the coming moves of the host and, between calls, of the transport -/
  script : List Move
  /-- what the transport delivers at the top of each coming PROCESS iteration (R190, D16) -/
  arrivals : List (List Byte)
  /-- what the transport delivers after these (D16, R260) -/
  supply : Supply
  /-- the platform parameters (R9), which no step changes -/
  cfg : Platform
deriving DecidableEq, Repr

/-- Faults: none. "There is no fault outcome, because the source defines no fatal condition" (R218), so
the type has no constructor and no step can stop with a fault. -/
inductive Fault
deriving DecidableEq, Repr

/-- Why the model gives a request no meaning. All are safe: the machine stops where hardware might go on. -/
inductive Refusal where
  /-- raised by an arm of exec whose instruction has no meaning yet; no arm does. Safe. -/
  | notModelled (mnemonic : String)
  /-- raised by RESET and SET_ADDRESS for addr > 190 (R219, decision D4). Safe. -/
  | addressOutOfRange
  /-- raised by RESET and RESIZE for a capacity above the platform's maximum (R219, decision D10). Safe. -/
  | capacityTooLarge
  /-- raised by a step on a scripted request whose operands do not fit its name (log entry 14). Safe. -/
  | badRequest (e : DecodeError)
  /-- raised by a step on a scripted request for an internal operation (R220, D18, log entry 15). Safe. -/
  | internalOperation (op : OpName)
deriving DecidableEq, Repr

/-- Creation of a block instance (R240, R241) on a platform, with a transport that holds nothing. -/
def State.create (node inputBits outputBits : Nat) (cfg : Platform) : State where
  node_address := node
  rx_cap := capOf outputBits
  tx_cap := capOf inputBits
  rx := []
  tx := []
  dec_state := .scanPreamble1
  rx_index := 0
  proc_active := false
  in_stream := []
  out_stream := []
  flushed := 0
  result := .none
  script := []
  arrivals := []
  supply := .silent
  cfg := cfg

/-- The machine right after creation with the parameters of Config (log entries 5, 6, 7). -/
def State.reset : State :=
  State.create Config.nodeAddrInit Config.inputBitsInit Config.outputBitsInit Config.platform

end Sys2Proof.Machine
end

