-- ==== Sys2Proof/Machine/Ops.lean ====
section
/-! DEFINITION. The named operations over buffers, streams and registers: the primitives of 00_scope.md
R12 and the payload store (41_frame_decoder.md R141). The block takes no exceptions and returns from
none (60_exceptions.md R211, R215, R216), so there is no operation for either. -/

namespace Sys2Proof.Machine

/-- What an instruction answers. -/
abbrev Answer := Host.Outcome State Fault Refusal

/-- The next state of an answer, if it is one. -/
def next? : Answer → Option State
  | .next s => some s
  | .fault _ => none
  | .refused _ => none

/-- Reading one byte of a buffer. -/
def Memory.read (m : Memory) (a : Nat) : Byte :=
  match m with
  | [] => Memory.unlisted
  | c :: rest => if c.1 = a then c.2 else Memory.read rest a

/-- Writing one byte of a buffer, keeping the canonical form. -/
def Memory.write (m : Memory) (a : Nat) (v : Byte) : Memory :=
  match m with
  | [] => if v = Memory.unlisted then [] else [(a, v)]
  | c :: rest =>
    if a < c.1 then if v = Memory.unlisted then c :: rest else (a, v) :: c :: rest
    else if a = c.1 then if v = Memory.unlisted then rest else (a, v) :: rest
    else c :: Memory.write rest a v

/-- The bytes of a buffer below an index; the others read as an unlisted address does. -/
def Memory.truncate (m : Memory) (n : Nat) : Memory := m.filter fun c => decide (c.1 < n)

/-- The canonical form: addresses strictly rising, no listed byte equal to an unlisted one. -/
def Memory.wf : Memory → Bool
  | [] => true
  | c :: rest => c.2 != Memory.unlisted && rest.all (fun d => decide (c.1 < d.1)) && Memory.wf rest

/-- Every listed address is below a capacity: the buffer holds exactly the indices 0..cap-1 (R31, R52). -/
def Memory.within (m : Memory) (cap : Nat) : Bool := m.all fun c => decide (c.1 < cap)

/-- A buffer as the spec's sequence of `cap` bytes (R31, R32). -/
def Memory.bytes (m : Memory) (cap : Nat) : List Byte := (List.range cap).map (Memory.read m)

/-- `RxWrite(i, v)` (R12). -/
def State.rxWrite (s : State) (i : Nat) (v : Byte) : State := { s with rx := Memory.write s.rx i v }

/-- `TxWrite(i, v)` (R12). -/
def State.txWrite (s : State) (i : Nat) (v : Byte) : State := { s with tx := Memory.write s.tx i v }

/-- `goto S`: `dec_state <- S` (R13). -/
def State.goto (s : State) (d : DecState) : State := { s with dec_state := d }

/-- `rx_index <- n`. -/
def State.setIndex (s : State) (n : Nat) : State := { s with rx_index := n }

/-- `return v` (R13). -/
def State.ret (s : State) (v : Result) : State := { s with result := v }

/-- `proc_active <- v` (R33). -/
def State.setActive (s : State) (v : Bool) : State := { s with proc_active := v }

/-- The transport appends bytes to in_stream (R34, R67). -/
def State.deliver (s : State) (bytes : List Byte) : State := { s with in_stream := s.in_stream ++ bytes }

/-- in_stream after reads: the bytes left. -/
def State.setInput (s : State) (left : List Byte) : State := { s with in_stream := left }

/-- The bytes of one delivery of a supply. -/
def Supply.bytes : Supply → List Byte
  | .silent => []
  | .steady bytes => bytes
  | .unknown k => Config.delivery k

/-- A supply after one delivery. -/
def Supply.after : Supply → Supply
  | .silent => .silent
  | .steady bytes => .steady bytes
  | .unknown k => .unknown (k + 1)

/-- What arrives at the top of the next PROCESS iteration (decision D16). -/
def State.delivery (s : State) : List Byte :=
  match s.arrivals with
  | [] => s.supply.bytes
  | bytes :: _ => bytes

/-- The transport after that delivery. -/
def State.advance (s : State) : State :=
  match s.arrivals with
  | [] => { s with supply := s.supply.after }
  | _ :: later => { s with arrivals := later }

/-- The transport's move at the top of a PROCESS iteration (R190, decision D16). -/
def State.arrive (s : State) : State := s.advance.deliver s.delivery

/-- What arrives at the top of each of the next n iterations. -/
def State.deliveries : Nat → State → List (List Byte)
  | 0, _ => []
  | n + 1, s => s.delivery :: State.deliveries n s.advance

/-- `WriteByte(b)` (R12, R68). -/
def State.writeByte (s : State) (b : Byte) : State := { s with out_stream := s.out_stream ++ [b] }

/-- `Flush()`: it returns when every byte written has been sent (R12, R68, decision D23). -/
def State.flush (s : State) : State := { s with flushed := s.out_stream.length }

/-- `Delay(P_TX_SETTLE_DELAY)`: no effect on any state (R180, R183). -/
def State.delay (s : State) (_duration : Nat) : State := s

/-- `StorePayload(b)`, the only decoder write to RX (41_frame_decoder.md R141). -/
def State.storePayload (s : State) (b : Byte) : State :=
  if s.rx_index < s.rx_cap then (s.rxWrite s.rx_index b).setIndex (s.rx_index + 1) else s

end Sys2Proof.Machine
end

