-- ==== Sys2Proof/Machine/Flags.lean ====
section
/-! DEFINITION. The derived flags: the ignore flag (10_state.md R28) and the error classes
(60_exceptions.md R210). The block stores no status flag (R30). -/

namespace Sys2Proof.Machine

/-- The ignore flag, a function of dec_state (R28). -/
def State.ignoring (s : State) : Bool :=
  match s.dec_state with
  | .ignoreCommand | .ignoreData | .ignoreEscapedData => true
  | .scanPreamble1 | .scanPreamble2 | .scanPreamble3 | .readAddress | .readCommand | .readData
  | .readEscapedData => false

/-- Whether `StorePayload` would drop a byte (R141, E_OVERLONG of R210). -/
def State.payloadFull (s : State) : Bool := decide (s.rx_cap ≤ s.rx_index)

/-- The error class of a byte at a decoder step, if any (R210). -/
def decodeErrorClass (b : Byte) (s : State) : Option ErrorClass :=
  match s.dec_state with
  | .scanPreamble1 => none
  | .scanPreamble2 => if b = Wire.PRE then none else some .noise
  | .scanPreamble3 => if b = Wire.STX then none else some .noise
  | .readAddress =>
    if b.toNat = Wire.addrNat s.node_address then none
    else if isAddrByte b then some .foreign else some .noise
  | .readCommand => if b = Wire.CMD_SET ∨ b = Wire.CMD_POLL then none else some .noise
  | .readData =>
    if b = Wire.ESC ∨ b = Wire.ETX then none else if s.payloadFull then some .overlong else none
  | .readEscapedData => if s.payloadFull then some .overlong else none
  | .ignoreCommand | .ignoreData | .ignoreEscapedData => none

/-- E_OOB for a byte index of RX (R210, R60). -/
def readErrorClass (i : Nat) (s : State) : Option ErrorClass :=
  if s.rx_cap ≤ i then some .oob else none

/-- E_OOB for a byte index of TX (R210, R60). -/
def writeErrorClass (i : Nat) (s : State) : Option ErrorClass :=
  if s.tx_cap ≤ i then some .oob else none

end Sys2Proof.Machine
end

