-- ==== Sys2Proof/Machine/Buffers.lean ====
section
/-! DEFINITION. The host operations on the buffer pair and the node address (40_buffer_pair.md R120 to
R131). -/

namespace Sys2Proof.Machine

/-- The value of `GET_BIT(pos)` (R122). -/
def getBit (pos : Nat) (s : State) : Bool :=
  if s.rx_cap ≤ byteIndex pos then false else bitOf (Memory.read s.rx (byteIndex pos)) (bitIndex pos)

/-- GET_BIT (R122). -/
def execGetBit (pos : Nat) (s : State) : Answer := .next (s.ret (.bool (getBit pos s)))

/-- The value of `GET_BYTE(pos)` (R123). -/
def getByte (pos : Nat) (s : State) : Byte :=
  if s.rx_cap ≤ pos then 0x00#8 else Memory.read s.rx pos

/-- GET_BYTE (R123). -/
def execGetByte (pos : Nat) (s : State) : Answer := .next (s.ret (.byte (getByte pos s)))

/-- SET_BIT (R124): the bound is `ceil((pos + 1) / 8) > tx_cap`. -/
def execSetBit (pos : Nat) (value : Bool) (s : State) : Answer :=
  if s.tx_cap < capOf (pos + 1) then .next (s.ret (.bool false))
  else
    let i := byteIndex pos
    .next ((s.txWrite i (withBit (Memory.read s.tx i) (bitIndex pos) value)).ret (.bool true))

/-- SET_BYTE (R126). -/
def execSetByte (pos : Nat) (value : Byte) (s : State) : Answer :=
  if s.tx_cap ≤ pos then .next (s.ret (.bool false))
  else .next ((s.txWrite pos value).ret (.bool true))

/-- Both capacities are within the platform's maxima (R129, R240, R219). -/
def capacitiesFit (inputBits outputBits : Nat) (s : State) : Bool :=
  capFits s.cfg.tx_cap_max (capOf inputBits) && capFits s.cfg.rx_cap_max (capOf outputBits)

/-- RESIZE (R129): the old contents below both lengths are kept, growth is 0x00. -/
def execResize (inputBits outputBits : Nat) (s : State) : Answer :=
  if capacitiesFit inputBits outputBits s then
    .next ({ s with
      rx := Memory.truncate s.rx (min s.rx_cap (capOf outputBits))
      tx := Memory.truncate s.tx (min s.tx_cap (capOf inputBits))
      rx_cap := capOf outputBits
      tx_cap := capOf inputBits }.ret .none)
  else .refused .capacityTooLarge

/-- SET_ADDRESS (R131). -/
def execSetAddress (addr : Nat) (s : State) : Answer :=
  if Wire.NODE_MAX < addr then .refused .addressOutOfRange
  else .next ({ s with node_address := addr }.ret .none)

/-- RESET (70_reset_and_hazards.md R240): the address is tested first; the streams are not touched. -/
def execReset (addr inputBits outputBits : Nat) (s : State) : Answer :=
  if Wire.NODE_MAX < addr then .refused .addressOutOfRange
  else if capacitiesFit inputBits outputBits s then
    .next ({ s with
      node_address := addr
      tx_cap := capOf inputBits
      rx_cap := capOf outputBits
      tx := []
      rx := []
      dec_state := .scanPreamble1
      rx_index := 0
      proc_active := false }.ret .none)
  else .refused .capacityTooLarge

end Sys2Proof.Machine
end

