-- ==== Sys2Proof/Machine/Decoder.lean ====
section
/-! DEFINITION. The frame decoder: one definition per state (41_frame_decoder.md R142 to R151), the step
(R140), and the meanings of the decode table's rows (R152). -/

namespace Sys2Proof.Machine

/-- R142. -/
def inScanPreamble1 (b : Byte) (s : State) : CommandKind × State :=
  if b = Wire.PRE then (.noop, s.goto .scanPreamble2) else (.noop, s.goto .scanPreamble1)

/-- R143. -/
def inScanPreamble2 (b : Byte) (s : State) : CommandKind × State :=
  if b = Wire.PRE then (.noop, s.goto .scanPreamble3) else (.noop, s.goto .scanPreamble1)

/-- R144. -/
def inScanPreamble3 (b : Byte) (s : State) : CommandKind × State :=
  if b = Wire.STX then (.noop, s.goto .readAddress) else (.noop, s.goto .scanPreamble1)

/-- R145. The match test comes first; both tests compare unsigned integers (decision D2). -/
def inReadAddress (b : Byte) (s : State) : CommandKind × State :=
  if b.toNat = Wire.addrNat s.node_address then (.noop, s.goto .readCommand)
  else if isAddrByte b then (.noop, s.goto .ignoreCommand)
  else (.noop, s.goto .scanPreamble1)

/-- R146. -/
def inReadCommand (b : Byte) (s : State) : CommandKind × State :=
  if b = Wire.CMD_SET then (.noop, (s.setIndex 0).goto .readData)
  else if b = Wire.CMD_POLL then (.poll, s.goto .scanPreamble1)
  else (.noop, s.goto .scanPreamble1)

/-- R147: the byte's value is not examined. -/
def inIgnoreCommand (_b : Byte) (s : State) : CommandKind × State := (.noop, s.goto .ignoreData)

/-- R148. -/
def inReadData (b : Byte) (s : State) : CommandKind × State :=
  if b = Wire.ESC then (.noop, s.goto .readEscapedData)
  else if b = Wire.ETX then (.set, s.goto .scanPreamble1)
  else (.noop, s.storePayload b)

/-- R149: the byte is literal payload whatever its value. -/
def inReadEscapedData (b : Byte) (s : State) : CommandKind × State :=
  (.noop, (s.storePayload b).goto .readData)

/-- R150. -/
def inIgnoreData (b : Byte) (s : State) : CommandKind × State :=
  if b = Wire.ESC then (.noop, s.goto .ignoreEscapedData)
  else if b = Wire.ETX then (.noop, s.goto .scanPreamble1)
  else (.noop, s.goto .ignoreData)

/-- R151: the byte is discarded. -/
def inIgnoreEscapedData (_b : Byte) (s : State) : CommandKind × State := (.noop, s.goto .ignoreData)

/-- `DECODE_STEP(b)`: the kind returned and the state after (R140). -/
def decodeByte (b : Byte) (s : State) : CommandKind × State :=
  match s.dec_state with
  | .scanPreamble1 => inScanPreamble1 b s
  | .scanPreamble2 => inScanPreamble2 b s
  | .scanPreamble3 => inScanPreamble3 b s
  | .readAddress => inReadAddress b s
  | .readCommand => inReadCommand b s
  | .ignoreCommand => inIgnoreCommand b s
  | .readData => inReadData b s
  | .readEscapedData => inReadEscapedData b s
  | .ignoreData => inIgnoreData b s
  | .ignoreEscapedData => inIgnoreEscapedData b s

/-- The decoder fed a byte sequence: the kinds returned, in order, and the state after (R158). -/
def decodeRun : List Byte → State → List CommandKind × State
  | [], s => ([], s)
  | b :: bs, s =>
    let r := decodeByte b s
    let rest := decodeRun bs r.2
    (r.1 :: rest.1, rest.2)

/-- DECODE_STEP (R140): the step, with its kind returned. -/
def execDecodeStep (b : Byte) (s : State) : Answer :=
  let r := decodeByte b s
  .next (r.2.ret (.kind r.1))

/-- A row of the decode table (R152): in its state, on a byte of its class that no earlier row of the
state takes (`selected`), it does its action, goes to its next state and returns its kind. Anywhere else
the row does not apply and nothing happens. DESIGN CHOICE (log entry 12). -/
def takeRow (st : DecState) (selected : Bool) (action : State → State) (dest : DecState) (k : CommandKind)
    (s : State) : Answer :=
  if s.dec_state = st ∧ selected then .next (((action s).goto dest).ret (.kind k)) else .next s

/-- DEC.SP1.FF (R142). -/
def execDecSp1Ff (s : State) : Answer := takeRow .scanPreamble1 true id .scanPreamble2 .noop s

/-- DEC.SP1.any (R142). -/
def execDecSp1Any (b : Byte) (s : State) : Answer :=
  takeRow .scanPreamble1 (b != Wire.PRE) id .scanPreamble1 .noop s

/-- DEC.SP2.FF (R143). -/
def execDecSp2Ff (s : State) : Answer := takeRow .scanPreamble2 true id .scanPreamble3 .noop s

/-- DEC.SP2.any (R143). -/
def execDecSp2Any (b : Byte) (s : State) : Answer :=
  takeRow .scanPreamble2 (b != Wire.PRE) id .scanPreamble1 .noop s

/-- DEC.SP3.02 (R144). -/
def execDecSp3Stx (s : State) : Answer := takeRow .scanPreamble3 true id .readAddress .noop s

/-- DEC.SP3.any (R144). -/
def execDecSp3Any (b : Byte) (s : State) : Answer :=
  takeRow .scanPreamble3 (b != Wire.STX) id .scanPreamble1 .noop s

/-- DEC.RA.match (R145). -/
def execDecRaMatch (b : Byte) (s : State) : Answer :=
  takeRow .readAddress (b.toNat == Wire.addrNat s.node_address) id .readCommand .noop s

/-- DEC.RA.foreign (R145). -/
def execDecRaForeign (b : Byte) (s : State) : Answer :=
  takeRow .readAddress (b.toNat != Wire.addrNat s.node_address && isAddrByte b) id .ignoreCommand .noop s

/-- DEC.RA.any (R145). -/
def execDecRaAny (b : Byte) (s : State) : Answer :=
  takeRow .readAddress (b.toNat != Wire.addrNat s.node_address && !isAddrByte b) id .scanPreamble1 .noop s

/-- DEC.RC.54 (R146). -/
def execDecRcSet (s : State) : Answer :=
  takeRow .readCommand true (fun s => s.setIndex 0) .readData .noop s

/-- DEC.RC.50 (R146). -/
def execDecRcPoll (s : State) : Answer := takeRow .readCommand true id .scanPreamble1 .poll s

/-- DEC.RC.any (R146). -/
def execDecRcAny (b : Byte) (s : State) : Answer :=
  takeRow .readCommand (b != Wire.CMD_SET && b != Wire.CMD_POLL) id .scanPreamble1 .noop s

/-- DEC.IC.any (R147). -/
def execDecIcAny (_b : Byte) (s : State) : Answer := takeRow .ignoreCommand true id .ignoreData .noop s

/-- DEC.RD.10 (R148). -/
def execDecRdEsc (s : State) : Answer := takeRow .readData true id .readEscapedData .noop s

/-- DEC.RD.03 (R148). -/
def execDecRdEtx (s : State) : Answer := takeRow .readData true id .scanPreamble1 .set s

/-- DEC.RD.any (R148, R141). -/
def execDecRdAny (b : Byte) (s : State) : Answer :=
  takeRow .readData (b != Wire.ESC && b != Wire.ETX) (fun s => s.storePayload b) .readData .noop s

/-- DEC.RE.any (R149, R141). -/
def execDecReAny (b : Byte) (s : State) : Answer :=
  takeRow .readEscapedData true (fun s => s.storePayload b) .readData .noop s

/-- DEC.ID.10 (R150). -/
def execDecIdEsc (s : State) : Answer := takeRow .ignoreData true id .ignoreEscapedData .noop s

/-- DEC.ID.03 (R150). -/
def execDecIdEtx (s : State) : Answer := takeRow .ignoreData true id .scanPreamble1 .noop s

/-- DEC.ID.any (R150). -/
def execDecIdAny (b : Byte) (s : State) : Answer :=
  takeRow .ignoreData (b != Wire.ESC && b != Wire.ETX) id .ignoreData .noop s

/-- DEC.IE.any (R151). -/
def execDecIeAny (_b : Byte) (s : State) : Answer :=
  takeRow .ignoreEscapedData true id .ignoreData .noop s

end Sys2Proof.Machine
end

