-- ==== Sys2Proof/Machine/Encoder.lean ====
section
/-! DEFINITION. The frame encoder (42_frame_encoder.md R180). -/

namespace Sys2Proof.Machine

/-- One byte of TX sent: an ESC before it if it is ETX or ESC (R180, R83). -/
def writeEscaped (s : State) (b : Byte) : State :=
  if b = Wire.ETX ∨ b = Wire.ESC then (s.writeByte Wire.ESC).writeByte b else s.writeByte b

/-- `for i in 0 .. tx_cap-1`: TX read one byte at a time, in ascending order (R180, R57). -/
def writeTx (s : State) : State :=
  (List.range s.tx_cap).foldl (fun t i => writeEscaped t (Memory.read t.tx i)) s

/-- `ENCODE()` (R180). -/
def encodeResponse (s : State) : State :=
  let s := s.delay s.cfg.tx_settle_delay
  let s := (s.writeByte Wire.PRE).writeByte Wire.PRE
  let s := s.writeByte Wire.STX
  let s := s.writeByte (Wire.addrByte s.node_address)
  let s := s.writeByte Wire.CMD_GET
  let s := writeTx s
  let s := s.writeByte Wire.ETX
  s.flush

/-- ENCODE (R180): it returns nothing. -/
def execEncode (s : State) : Answer := .next ((encodeResponse s).ret .none)

end Sys2Proof.Machine
end

