-- ==== Sys2Proof/Machine/Session.lean ====
section
/-! DEFINITION. The session: the handling of one received byte and the drain loop (43_session.md R190
to R192). -/

namespace Sys2Proof.Machine

/-- The session's handling of a byte it has taken: the decoder step, and ENCODE if it returns POLL
(R190, R192). The kind is returned. -/
def receiveByte (b : Byte) (s : State) : State :=
  let r := decodeByte b s
  (if r.1 = .poll then encodeResponse r.2 else r.2).ret (.kind r.1)

/-- A byte sequence handled one byte after the other; the kind returned is that of the first byte that
completes a frame, NOOP if none does. DESIGN CHOICE (log entry 29). -/
def receiveBytes : List Byte → State → State
  | [], s => s.ret (.kind .noop)
  | b :: bs, s =>
    let t := receiveByte b s
    let u := receiveBytes bs t
    if t.result = .kind .noop then u else u.ret t.result

/-- The end of a loop iteration: the call returns if the byte returned SET or POLL (R190, R191). -/
def endIteration (s : State) : State := if s.result = .kind .noop then s else s.setActive false

/-- One iteration of the loop of R190, one atomic step of the block: arrivals, `Avail()`, `ReadByte()`,
`DECODE_STEP`, dispatch. With nothing available the call returns NOOP. -/
def processIteration (s : State) : State :=
  let s := s.arrive
  match s.in_stream with
  | [] => (s.setActive false).ret (.kind .noop)
  | b :: left => endIteration (receiveByte b (s.setInput left))

/-- PROCESS (R190): the call begins and its first iteration runs. While `proc_active` stays true the step
goes on with `processIteration`, since PROCESS as a whole is not atomic (20_memory.md R58). -/
def execProcess (s : State) : Answer := .next (processIteration (s.setActive true))

/-- The whole of R190's loop on the bytes available, when nothing arrives during the call. -/
def processAvailable : List Byte → State → State
  | [], s => ((s.setInput []).setActive false).ret (.kind .noop)
  | b :: left, s =>
    let t := receiveByte b (s.setInput left)
    if t.result = .kind .noop then processAvailable left t else t.setActive false

end Sys2Proof.Machine
end

