-- ==== Sys2Proof/Machine/WireBytes.lean ====
section
/-! DEFINITION. The meanings of the wire rows of the opcode table: a byte, or a whole frame, received
(30_encoding.md R80 to R85). What a byte does is decided by the decoder's state (R86). -/

namespace Sys2Proof.Machine

/-- PRE received (R80). -/
def execPre (s : State) : Answer := .next (receiveByte Wire.PRE s)

/-- STX received (R80). -/
def execStx (s : State) : Answer := .next (receiveByte Wire.STX s)

/-- ETX received (R80). -/
def execEtx (s : State) : Answer := .next (receiveByte Wire.ETX s)

/-- ESC received (R83, R84). -/
def execEsc (s : State) : Answer := .next (receiveByte Wire.ESC s)

/-- CMD_INIT received (R82). -/
def execCmdInit (s : State) : Answer := .next (receiveByte Wire.CMD_INIT s)

/-- CMD_SET received (R82). -/
def execCmdSet (s : State) : Answer := .next (receiveByte Wire.CMD_SET s)

/-- CMD_GET received (R82). -/
def execCmdGet (s : State) : Answer := .next (receiveByte Wire.CMD_GET s)

/-- CMD_POLL received (R82, R192). -/
def execCmdPoll (s : State) : Answer := .next (receiveByte Wire.CMD_POLL s)

/-- ADDR received: matching, foreign or malformed (R81). -/
def execAddr (b : Byte) (s : State) : Answer := .next (receiveByte b s)

/-- FRAME received: its bytes, the payload escaped, one after the other with nothing in between (R80, R83).
DESIGN CHOICE (log entry 11). -/
def execFrame (a : Byte) (cmd : Cmd) (payload : List Byte) (s : State) : Answer :=
  .next (receiveBytes (Wire.frameBytes a (Wire.cmdByte cmd) payload) s)

end Sys2Proof.Machine
end

