-- ==== Sys2Proof/Machine/Dispatch.lean ====
section
/-! DEFINITION. The dispatch: one arm per constructor of Instr, each one direct call of its meaning. -/

namespace Sys2Proof.Machine

def exec (i : Instr) (s : State) : Host.Outcome State Fault Refusal :=
  match i with
  | .pre => Sys2Proof.Machine.execPre s
  | .stx => Sys2Proof.Machine.execStx s
  | .etx => Sys2Proof.Machine.execEtx s
  | .esc => Sys2Proof.Machine.execEsc s
  | .cmdInit => Sys2Proof.Machine.execCmdInit s
  | .cmdSet => Sys2Proof.Machine.execCmdSet s
  | .cmdGet => Sys2Proof.Machine.execCmdGet s
  | .cmdPoll => Sys2Proof.Machine.execCmdPoll s
  | .addr b => Sys2Proof.Machine.execAddr b s
  | .frame a cmd payload => Sys2Proof.Machine.execFrame a cmd payload s
  | .decSp1Ff => Sys2Proof.Machine.execDecSp1Ff s
  | .decSp1Any b => Sys2Proof.Machine.execDecSp1Any b s
  | .decSp2Ff => Sys2Proof.Machine.execDecSp2Ff s
  | .decSp2Any b => Sys2Proof.Machine.execDecSp2Any b s
  | .decSp3Stx => Sys2Proof.Machine.execDecSp3Stx s
  | .decSp3Any b => Sys2Proof.Machine.execDecSp3Any b s
  | .decRaMatch b => Sys2Proof.Machine.execDecRaMatch b s
  | .decRaForeign b => Sys2Proof.Machine.execDecRaForeign b s
  | .decRaAny b => Sys2Proof.Machine.execDecRaAny b s
  | .decRcSet => Sys2Proof.Machine.execDecRcSet s
  | .decRcPoll => Sys2Proof.Machine.execDecRcPoll s
  | .decRcAny b => Sys2Proof.Machine.execDecRcAny b s
  | .decIcAny b => Sys2Proof.Machine.execDecIcAny b s
  | .decRdEsc => Sys2Proof.Machine.execDecRdEsc s
  | .decRdEtx => Sys2Proof.Machine.execDecRdEtx s
  | .decRdAny b => Sys2Proof.Machine.execDecRdAny b s
  | .decReAny b => Sys2Proof.Machine.execDecReAny b s
  | .decIdEsc => Sys2Proof.Machine.execDecIdEsc s
  | .decIdEtx => Sys2Proof.Machine.execDecIdEtx s
  | .decIdAny b => Sys2Proof.Machine.execDecIdAny b s
  | .decIeAny b => Sys2Proof.Machine.execDecIeAny b s
  | .reset addr inputBits outputBits => Sys2Proof.Machine.execReset addr inputBits outputBits s
  | .setAddress addr => Sys2Proof.Machine.execSetAddress addr s
  | .resize inputBits outputBits => Sys2Proof.Machine.execResize inputBits outputBits s
  | .getBit pos => Sys2Proof.Machine.execGetBit pos s
  | .getByte pos => Sys2Proof.Machine.execGetByte pos s
  | .setBit pos value => Sys2Proof.Machine.execSetBit pos value s
  | .setByte pos value => Sys2Proof.Machine.execSetByte pos value s
  | .process => Sys2Proof.Machine.execProcess s
  | .decodeStep b => Sys2Proof.Machine.execDecodeStep b s
  | .encode => Sys2Proof.Machine.execEncode s

end Sys2Proof.Machine
end

