-- ==== Sys2Proof/Machine/HostMoves.lean ====
section
/-! DEFINITION. The moves between calls: the host issues one operation, or the transport has received
bytes (30_encoding.md R102, 60_exceptions.md R227). -/

namespace Sys2Proof.Machine

/-- The host issues an operation: the request is decoded and executed. An internal operation is never
open to the host (R220, decision D18); a request that is no operation has no meaning (log entry 14). -/
def issue (r : Request) (s : State) : Answer :=
  if r.op.isInternal then .refused (.internalOperation r.op)
  else match decodeRequest r with
    | .error e => .refused (.badRequest e)
    | .ok i => exec i s

/-- One line of the script. -/
def takeMove (m : Move) (s : State) : Answer :=
  match m with
  | .call r => issue r s
  | .feed bytes => .next (s.deliver bytes)

/-- A step outside PROCESS: the next line of the script, or nothing (R196, R225: the block is idle). -/
def takeScript (s : State) : Answer :=
  match s.script with
  | [] => .next s
  | m :: later => takeMove m { s with script := later }

/-- The fetch place of a wire byte: the head of in_stream while a PROCESS is in progress (R22, R67). -/
def placeWord (s : State) (nbits w : Nat) : State :=
  { s with proc_active := true, in_stream := wordBytes nbits w ++ s.in_stream }

end Sys2Proof.Machine
end

