-- ==== Sys2Proof/Machine/Step.lean ====
section
/-! DEFINITION. One step of the machine: a loop iteration of the PROCESS in progress, during which the
host has no move (10_state.md R33), or else the next line of the script. -/

namespace Sys2Proof.Machine

/-- One step. -/
def step (s : State) : Host.Outcome State Fault Refusal :=
  if s.proc_active then .next (processIteration s) else takeScript s

/-- The state with a table word where the next step reads its next byte (log entry 26). -/
def State.withFetchWord (s : State) (nbits w : Nat) : State := placeWord s nbits w

end Sys2Proof.Machine
end

