-- ==== Sys2Proof/Safety.lean ====
section
/-! DEFINITION. What claims are stated in: the invariants of 10_state.md R37 and the frames. -/

namespace Sys2Proof.Machine

/-- A buffer is in its canonical form and holds only the indices below its capacity (R37 (a)). -/
def bufferOk (m : Memory) (cap : Nat) : Bool := Memory.wf m && Memory.within m cap

/-- The invariants every operation keeps (R37 (a), (b), (c)), and that every byte written has been sent
between steps (R58, R63). R37 (d) is the meaning of `proc_active` itself. -/
structure State.Inv (s : State) : Prop where
  rx_ok : bufferOk s.rx s.rx_cap = true
  tx_ok : bufferOk s.tx s.tx_cap = true
  node_le : s.node_address ≤ Wire.NODE_MAX
  rx_cap_fits : capFits s.cfg.rx_cap_max s.rx_cap = true
  tx_cap_fits : capFits s.cfg.tx_cap_max s.tx_cap = true
  all_sent : s.flushed = s.out_stream.length

/-- A step that neither faults nor is refused. -/
def SafeStep (s : State) : Prop := ∃ t, step s = .next t

/-- A PROCESS is not in progress and the host's next move is one of these operations (R36, R100). -/
def Called (s : State) (ops : List OpName) : Prop :=
  s.proc_active = false ∧ ∃ r later, s.script = .call r :: later ∧ r.op ∈ ops

/-- The next step is an iteration of a PROCESS: one is in progress, or the host begins one. -/
def Processing (s : State) : Prop := s.proc_active = true ∨ Called s [.process]

/-- What the payload store does to the cursor and to RX (R141): `t` after, `s` before. -/
def StoresPayload (b : Byte) (s t : State) : Prop :=
  if s.rx_index < s.rx_cap then
    t.rx_index = s.rx_index + 1 ∧
      ∀ a, Memory.read t.rx a = if a = s.rx_index then b else Memory.read s.rx a
  else t.rx_index = s.rx_index ∧ ∀ a, Memory.read t.rx a = Memory.read s.rx a

/-- The response frame of a state, in the bytes of R181. -/
def responseOf (s : State) : List Byte :=
  [0xFF#8, 0xFF#8, 0x02#8, BitVec.ofNat 8 (0x41 + s.node_address), 0x52#8] ++
    Wire.escape (Memory.bytes s.tx s.tx_cap) ++ [0x03#8]

end Sys2Proof.Machine
end

