-- ==== Sys2Proof/Laws/State.lean ====
section
/-! SUPPORT. One lemma per field per update of State, so that no proof unfolds a record update. -/

namespace Sys2Proof.Machine

variable (s : State)

@[simp] theorem State.rxWrite_node_address (i : Nat) (v : Byte) : (s.rxWrite i v).node_address = s.node_address := rfl
@[simp] theorem State.rxWrite_rx_cap (i : Nat) (v : Byte) : (s.rxWrite i v).rx_cap = s.rx_cap := rfl
@[simp] theorem State.rxWrite_tx_cap (i : Nat) (v : Byte) : (s.rxWrite i v).tx_cap = s.tx_cap := rfl
@[simp] theorem State.rxWrite_rx (i : Nat) (v : Byte) : (s.rxWrite i v).rx = Memory.write s.rx i v := rfl
@[simp] theorem State.rxWrite_tx (i : Nat) (v : Byte) : (s.rxWrite i v).tx = s.tx := rfl
@[simp] theorem State.rxWrite_dec_state (i : Nat) (v : Byte) : (s.rxWrite i v).dec_state = s.dec_state := rfl
@[simp] theorem State.rxWrite_rx_index (i : Nat) (v : Byte) : (s.rxWrite i v).rx_index = s.rx_index := rfl
@[simp] theorem State.rxWrite_proc_active (i : Nat) (v : Byte) : (s.rxWrite i v).proc_active = s.proc_active := rfl
@[simp] theorem State.rxWrite_in_stream (i : Nat) (v : Byte) : (s.rxWrite i v).in_stream = s.in_stream := rfl
@[simp] theorem State.rxWrite_out_stream (i : Nat) (v : Byte) : (s.rxWrite i v).out_stream = s.out_stream := rfl
@[simp] theorem State.rxWrite_flushed (i : Nat) (v : Byte) : (s.rxWrite i v).flushed = s.flushed := rfl
@[simp] theorem State.rxWrite_result (i : Nat) (v : Byte) : (s.rxWrite i v).result = s.result := rfl
@[simp] theorem State.rxWrite_script (i : Nat) (v : Byte) : (s.rxWrite i v).script = s.script := rfl
@[simp] theorem State.rxWrite_arrivals (i : Nat) (v : Byte) : (s.rxWrite i v).arrivals = s.arrivals := rfl
@[simp] theorem State.rxWrite_supply (i : Nat) (v : Byte) : (s.rxWrite i v).supply = s.supply := rfl
@[simp] theorem State.rxWrite_cfg (i : Nat) (v : Byte) : (s.rxWrite i v).cfg = s.cfg := rfl

@[simp] theorem State.txWrite_node_address (i : Nat) (v : Byte) : (s.txWrite i v).node_address = s.node_address := rfl
@[simp] theorem State.txWrite_rx_cap (i : Nat) (v : Byte) : (s.txWrite i v).rx_cap = s.rx_cap := rfl
@[simp] theorem State.txWrite_tx_cap (i : Nat) (v : Byte) : (s.txWrite i v).tx_cap = s.tx_cap := rfl
@[simp] theorem State.txWrite_rx (i : Nat) (v : Byte) : (s.txWrite i v).rx = s.rx := rfl
@[simp] theorem State.txWrite_tx (i : Nat) (v : Byte) : (s.txWrite i v).tx = Memory.write s.tx i v := rfl
@[simp] theorem State.txWrite_dec_state (i : Nat) (v : Byte) : (s.txWrite i v).dec_state = s.dec_state := rfl
@[simp] theorem State.txWrite_rx_index (i : Nat) (v : Byte) : (s.txWrite i v).rx_index = s.rx_index := rfl
@[simp] theorem State.txWrite_proc_active (i : Nat) (v : Byte) : (s.txWrite i v).proc_active = s.proc_active := rfl
@[simp] theorem State.txWrite_in_stream (i : Nat) (v : Byte) : (s.txWrite i v).in_stream = s.in_stream := rfl
@[simp] theorem State.txWrite_out_stream (i : Nat) (v : Byte) : (s.txWrite i v).out_stream = s.out_stream := rfl
@[simp] theorem State.txWrite_flushed (i : Nat) (v : Byte) : (s.txWrite i v).flushed = s.flushed := rfl
@[simp] theorem State.txWrite_result (i : Nat) (v : Byte) : (s.txWrite i v).result = s.result := rfl
@[simp] theorem State.txWrite_script (i : Nat) (v : Byte) : (s.txWrite i v).script = s.script := rfl
@[simp] theorem State.txWrite_arrivals (i : Nat) (v : Byte) : (s.txWrite i v).arrivals = s.arrivals := rfl
@[simp] theorem State.txWrite_supply (i : Nat) (v : Byte) : (s.txWrite i v).supply = s.supply := rfl
@[simp] theorem State.txWrite_cfg (i : Nat) (v : Byte) : (s.txWrite i v).cfg = s.cfg := rfl

@[simp] theorem State.goto_node_address (d : DecState) : (s.goto d).node_address = s.node_address := rfl
@[simp] theorem State.goto_rx_cap (d : DecState) : (s.goto d).rx_cap = s.rx_cap := rfl
@[simp] theorem State.goto_tx_cap (d : DecState) : (s.goto d).tx_cap = s.tx_cap := rfl
@[simp] theorem State.goto_rx (d : DecState) : (s.goto d).rx = s.rx := rfl
@[simp] theorem State.goto_tx (d : DecState) : (s.goto d).tx = s.tx := rfl
@[simp] theorem State.goto_dec_state (d : DecState) : (s.goto d).dec_state = d := rfl
@[simp] theorem State.goto_rx_index (d : DecState) : (s.goto d).rx_index = s.rx_index := rfl
@[simp] theorem State.goto_proc_active (d : DecState) : (s.goto d).proc_active = s.proc_active := rfl
@[simp] theorem State.goto_in_stream (d : DecState) : (s.goto d).in_stream = s.in_stream := rfl
@[simp] theorem State.goto_out_stream (d : DecState) : (s.goto d).out_stream = s.out_stream := rfl
@[simp] theorem State.goto_flushed (d : DecState) : (s.goto d).flushed = s.flushed := rfl
@[simp] theorem State.goto_result (d : DecState) : (s.goto d).result = s.result := rfl
@[simp] theorem State.goto_script (d : DecState) : (s.goto d).script = s.script := rfl
@[simp] theorem State.goto_arrivals (d : DecState) : (s.goto d).arrivals = s.arrivals := rfl
@[simp] theorem State.goto_supply (d : DecState) : (s.goto d).supply = s.supply := rfl
@[simp] theorem State.goto_cfg (d : DecState) : (s.goto d).cfg = s.cfg := rfl

@[simp] theorem State.setIndex_node_address (n : Nat) : (s.setIndex n).node_address = s.node_address := rfl
@[simp] theorem State.setIndex_rx_cap (n : Nat) : (s.setIndex n).rx_cap = s.rx_cap := rfl
@[simp] theorem State.setIndex_tx_cap (n : Nat) : (s.setIndex n).tx_cap = s.tx_cap := rfl
@[simp] theorem State.setIndex_rx (n : Nat) : (s.setIndex n).rx = s.rx := rfl
@[simp] theorem State.setIndex_tx (n : Nat) : (s.setIndex n).tx = s.tx := rfl
@[simp] theorem State.setIndex_dec_state (n : Nat) : (s.setIndex n).dec_state = s.dec_state := rfl
@[simp] theorem State.setIndex_rx_index (n : Nat) : (s.setIndex n).rx_index = n := rfl
@[simp] theorem State.setIndex_proc_active (n : Nat) : (s.setIndex n).proc_active = s.proc_active := rfl
@[simp] theorem State.setIndex_in_stream (n : Nat) : (s.setIndex n).in_stream = s.in_stream := rfl
@[simp] theorem State.setIndex_out_stream (n : Nat) : (s.setIndex n).out_stream = s.out_stream := rfl
@[simp] theorem State.setIndex_flushed (n : Nat) : (s.setIndex n).flushed = s.flushed := rfl
@[simp] theorem State.setIndex_result (n : Nat) : (s.setIndex n).result = s.result := rfl
@[simp] theorem State.setIndex_script (n : Nat) : (s.setIndex n).script = s.script := rfl
@[simp] theorem State.setIndex_arrivals (n : Nat) : (s.setIndex n).arrivals = s.arrivals := rfl
@[simp] theorem State.setIndex_supply (n : Nat) : (s.setIndex n).supply = s.supply := rfl
@[simp] theorem State.setIndex_cfg (n : Nat) : (s.setIndex n).cfg = s.cfg := rfl

@[simp] theorem State.ret_node_address (v : Result) : (s.ret v).node_address = s.node_address := rfl
@[simp] theorem State.ret_rx_cap (v : Result) : (s.ret v).rx_cap = s.rx_cap := rfl
@[simp] theorem State.ret_tx_cap (v : Result) : (s.ret v).tx_cap = s.tx_cap := rfl
@[simp] theorem State.ret_rx (v : Result) : (s.ret v).rx = s.rx := rfl
@[simp] theorem State.ret_tx (v : Result) : (s.ret v).tx = s.tx := rfl
@[simp] theorem State.ret_dec_state (v : Result) : (s.ret v).dec_state = s.dec_state := rfl
@[simp] theorem State.ret_rx_index (v : Result) : (s.ret v).rx_index = s.rx_index := rfl
@[simp] theorem State.ret_proc_active (v : Result) : (s.ret v).proc_active = s.proc_active := rfl
@[simp] theorem State.ret_in_stream (v : Result) : (s.ret v).in_stream = s.in_stream := rfl
@[simp] theorem State.ret_out_stream (v : Result) : (s.ret v).out_stream = s.out_stream := rfl
@[simp] theorem State.ret_flushed (v : Result) : (s.ret v).flushed = s.flushed := rfl
@[simp] theorem State.ret_result (v : Result) : (s.ret v).result = v := rfl
@[simp] theorem State.ret_script (v : Result) : (s.ret v).script = s.script := rfl
@[simp] theorem State.ret_arrivals (v : Result) : (s.ret v).arrivals = s.arrivals := rfl
@[simp] theorem State.ret_supply (v : Result) : (s.ret v).supply = s.supply := rfl
@[simp] theorem State.ret_cfg (v : Result) : (s.ret v).cfg = s.cfg := rfl

@[simp] theorem State.setActive_node_address (v : Bool) : (s.setActive v).node_address = s.node_address := rfl
@[simp] theorem State.setActive_rx_cap (v : Bool) : (s.setActive v).rx_cap = s.rx_cap := rfl
@[simp] theorem State.setActive_tx_cap (v : Bool) : (s.setActive v).tx_cap = s.tx_cap := rfl
@[simp] theorem State.setActive_rx (v : Bool) : (s.setActive v).rx = s.rx := rfl
@[simp] theorem State.setActive_tx (v : Bool) : (s.setActive v).tx = s.tx := rfl
@[simp] theorem State.setActive_dec_state (v : Bool) : (s.setActive v).dec_state = s.dec_state := rfl
@[simp] theorem State.setActive_rx_index (v : Bool) : (s.setActive v).rx_index = s.rx_index := rfl
@[simp] theorem State.setActive_proc_active (v : Bool) : (s.setActive v).proc_active = v := rfl
@[simp] theorem State.setActive_in_stream (v : Bool) : (s.setActive v).in_stream = s.in_stream := rfl
@[simp] theorem State.setActive_out_stream (v : Bool) : (s.setActive v).out_stream = s.out_stream := rfl
@[simp] theorem State.setActive_flushed (v : Bool) : (s.setActive v).flushed = s.flushed := rfl
@[simp] theorem State.setActive_result (v : Bool) : (s.setActive v).result = s.result := rfl
@[simp] theorem State.setActive_script (v : Bool) : (s.setActive v).script = s.script := rfl
@[simp] theorem State.setActive_arrivals (v : Bool) : (s.setActive v).arrivals = s.arrivals := rfl
@[simp] theorem State.setActive_supply (v : Bool) : (s.setActive v).supply = s.supply := rfl
@[simp] theorem State.setActive_cfg (v : Bool) : (s.setActive v).cfg = s.cfg := rfl

@[simp] theorem State.deliver_node_address (bs : List Byte) : (s.deliver bs).node_address = s.node_address := rfl
@[simp] theorem State.deliver_rx_cap (bs : List Byte) : (s.deliver bs).rx_cap = s.rx_cap := rfl
@[simp] theorem State.deliver_tx_cap (bs : List Byte) : (s.deliver bs).tx_cap = s.tx_cap := rfl
@[simp] theorem State.deliver_rx (bs : List Byte) : (s.deliver bs).rx = s.rx := rfl
@[simp] theorem State.deliver_tx (bs : List Byte) : (s.deliver bs).tx = s.tx := rfl
@[simp] theorem State.deliver_dec_state (bs : List Byte) : (s.deliver bs).dec_state = s.dec_state := rfl
@[simp] theorem State.deliver_rx_index (bs : List Byte) : (s.deliver bs).rx_index = s.rx_index := rfl
@[simp] theorem State.deliver_proc_active (bs : List Byte) : (s.deliver bs).proc_active = s.proc_active := rfl
@[simp] theorem State.deliver_in_stream (bs : List Byte) : (s.deliver bs).in_stream = s.in_stream ++ bs := rfl
@[simp] theorem State.deliver_out_stream (bs : List Byte) : (s.deliver bs).out_stream = s.out_stream := rfl
@[simp] theorem State.deliver_flushed (bs : List Byte) : (s.deliver bs).flushed = s.flushed := rfl
@[simp] theorem State.deliver_result (bs : List Byte) : (s.deliver bs).result = s.result := rfl
@[simp] theorem State.deliver_script (bs : List Byte) : (s.deliver bs).script = s.script := rfl
@[simp] theorem State.deliver_arrivals (bs : List Byte) : (s.deliver bs).arrivals = s.arrivals := rfl
@[simp] theorem State.deliver_supply (bs : List Byte) : (s.deliver bs).supply = s.supply := rfl
@[simp] theorem State.deliver_cfg (bs : List Byte) : (s.deliver bs).cfg = s.cfg := rfl

@[simp] theorem State.setInput_node_address (bs : List Byte) : (s.setInput bs).node_address = s.node_address := rfl
@[simp] theorem State.setInput_rx_cap (bs : List Byte) : (s.setInput bs).rx_cap = s.rx_cap := rfl
@[simp] theorem State.setInput_tx_cap (bs : List Byte) : (s.setInput bs).tx_cap = s.tx_cap := rfl
@[simp] theorem State.setInput_rx (bs : List Byte) : (s.setInput bs).rx = s.rx := rfl
@[simp] theorem State.setInput_tx (bs : List Byte) : (s.setInput bs).tx = s.tx := rfl
@[simp] theorem State.setInput_dec_state (bs : List Byte) : (s.setInput bs).dec_state = s.dec_state := rfl
@[simp] theorem State.setInput_rx_index (bs : List Byte) : (s.setInput bs).rx_index = s.rx_index := rfl
@[simp] theorem State.setInput_proc_active (bs : List Byte) : (s.setInput bs).proc_active = s.proc_active := rfl
@[simp] theorem State.setInput_in_stream (bs : List Byte) : (s.setInput bs).in_stream = bs := rfl
@[simp] theorem State.setInput_out_stream (bs : List Byte) : (s.setInput bs).out_stream = s.out_stream := rfl
@[simp] theorem State.setInput_flushed (bs : List Byte) : (s.setInput bs).flushed = s.flushed := rfl
@[simp] theorem State.setInput_result (bs : List Byte) : (s.setInput bs).result = s.result := rfl
@[simp] theorem State.setInput_script (bs : List Byte) : (s.setInput bs).script = s.script := rfl
@[simp] theorem State.setInput_arrivals (bs : List Byte) : (s.setInput bs).arrivals = s.arrivals := rfl
@[simp] theorem State.setInput_supply (bs : List Byte) : (s.setInput bs).supply = s.supply := rfl
@[simp] theorem State.setInput_cfg (bs : List Byte) : (s.setInput bs).cfg = s.cfg := rfl

@[simp] theorem State.writeByte_node_address (b : Byte) : (s.writeByte b).node_address = s.node_address := rfl
@[simp] theorem State.writeByte_rx_cap (b : Byte) : (s.writeByte b).rx_cap = s.rx_cap := rfl
@[simp] theorem State.writeByte_tx_cap (b : Byte) : (s.writeByte b).tx_cap = s.tx_cap := rfl
@[simp] theorem State.writeByte_rx (b : Byte) : (s.writeByte b).rx = s.rx := rfl
@[simp] theorem State.writeByte_tx (b : Byte) : (s.writeByte b).tx = s.tx := rfl
@[simp] theorem State.writeByte_dec_state (b : Byte) : (s.writeByte b).dec_state = s.dec_state := rfl
@[simp] theorem State.writeByte_rx_index (b : Byte) : (s.writeByte b).rx_index = s.rx_index := rfl
@[simp] theorem State.writeByte_proc_active (b : Byte) : (s.writeByte b).proc_active = s.proc_active := rfl
@[simp] theorem State.writeByte_in_stream (b : Byte) : (s.writeByte b).in_stream = s.in_stream := rfl
@[simp] theorem State.writeByte_out_stream (b : Byte) : (s.writeByte b).out_stream = s.out_stream ++ [b] := rfl
@[simp] theorem State.writeByte_flushed (b : Byte) : (s.writeByte b).flushed = s.flushed := rfl
@[simp] theorem State.writeByte_result (b : Byte) : (s.writeByte b).result = s.result := rfl
@[simp] theorem State.writeByte_script (b : Byte) : (s.writeByte b).script = s.script := rfl
@[simp] theorem State.writeByte_arrivals (b : Byte) : (s.writeByte b).arrivals = s.arrivals := rfl
@[simp] theorem State.writeByte_supply (b : Byte) : (s.writeByte b).supply = s.supply := rfl
@[simp] theorem State.writeByte_cfg (b : Byte) : (s.writeByte b).cfg = s.cfg := rfl

@[simp] theorem State.flush_node_address : s.flush.node_address = s.node_address := rfl
@[simp] theorem State.flush_rx_cap : s.flush.rx_cap = s.rx_cap := rfl
@[simp] theorem State.flush_tx_cap : s.flush.tx_cap = s.tx_cap := rfl
@[simp] theorem State.flush_rx : s.flush.rx = s.rx := rfl
@[simp] theorem State.flush_tx : s.flush.tx = s.tx := rfl
@[simp] theorem State.flush_dec_state : s.flush.dec_state = s.dec_state := rfl
@[simp] theorem State.flush_rx_index : s.flush.rx_index = s.rx_index := rfl
@[simp] theorem State.flush_proc_active : s.flush.proc_active = s.proc_active := rfl
@[simp] theorem State.flush_in_stream : s.flush.in_stream = s.in_stream := rfl
@[simp] theorem State.flush_out_stream : s.flush.out_stream = s.out_stream := rfl
@[simp] theorem State.flush_flushed : s.flush.flushed = s.out_stream.length := rfl
@[simp] theorem State.flush_result : s.flush.result = s.result := rfl
@[simp] theorem State.flush_script : s.flush.script = s.script := rfl
@[simp] theorem State.flush_arrivals : s.flush.arrivals = s.arrivals := rfl
@[simp] theorem State.flush_supply : s.flush.supply = s.supply := rfl
@[simp] theorem State.flush_cfg : s.flush.cfg = s.cfg := rfl

@[simp] theorem State.delay_eq (d : Nat) : s.delay d = s := rfl

/-- The transport's schedule moves on and nothing else does. -/
theorem State.advance_eq : s.advance = { s with arrivals := s.arrivals.tail, supply := s.advance.supply } := by
  unfold State.advance
  split <;> simp_all

@[simp] theorem State.advance_arrivals : s.advance.arrivals = s.arrivals.tail := by rw [State.advance_eq]
@[simp] theorem State.advance_node_address : s.advance.node_address = s.node_address := by rw [State.advance_eq]
@[simp] theorem State.advance_rx_cap : s.advance.rx_cap = s.rx_cap := by rw [State.advance_eq]
@[simp] theorem State.advance_tx_cap : s.advance.tx_cap = s.tx_cap := by rw [State.advance_eq]
@[simp] theorem State.advance_rx : s.advance.rx = s.rx := by rw [State.advance_eq]
@[simp] theorem State.advance_tx : s.advance.tx = s.tx := by rw [State.advance_eq]
@[simp] theorem State.advance_dec_state : s.advance.dec_state = s.dec_state := by rw [State.advance_eq]
@[simp] theorem State.advance_rx_index : s.advance.rx_index = s.rx_index := by rw [State.advance_eq]
@[simp] theorem State.advance_proc_active : s.advance.proc_active = s.proc_active := by rw [State.advance_eq]
@[simp] theorem State.advance_in_stream : s.advance.in_stream = s.in_stream := by rw [State.advance_eq]
@[simp] theorem State.advance_out_stream : s.advance.out_stream = s.out_stream := by rw [State.advance_eq]
@[simp] theorem State.advance_flushed : s.advance.flushed = s.flushed := by rw [State.advance_eq]
@[simp] theorem State.advance_result : s.advance.result = s.result := by rw [State.advance_eq]
@[simp] theorem State.advance_script : s.advance.script = s.script := by rw [State.advance_eq]
@[simp] theorem State.advance_cfg : s.advance.cfg = s.cfg := by rw [State.advance_eq]

theorem State.delivery_cons (bytes : List Byte) (later : List (List Byte)) (h : s.arrivals = bytes :: later) :
    s.delivery = bytes ∧ s.advance = { s with arrivals := later } := by
  simp [State.delivery, State.advance, h]

theorem State.delivery_nil (h : s.arrivals = []) :
    s.delivery = s.supply.bytes ∧ s.advance = { s with supply := s.supply.after } := by
  simp [State.delivery, State.advance, h]

theorem State.advance_silent (h : s.arrivals = []) (hu : s.supply = .silent) :
    s.delivery = [] ∧ s.advance = s := by
  cases s; simp_all [State.delivery, State.advance, Supply.bytes, Supply.after]

/-- The schedule depends on nothing but its own two fields. -/
theorem State.deliveries_congr (n : Nat) (s t : State) (ha : s.arrivals = t.arrivals)
    (hu : s.supply = t.supply) : State.deliveries n s = State.deliveries n t := by
  induction n generalizing s t with
  | zero => rfl
  | succ n ih =>
    have hd : s.delivery = t.delivery := by simp [State.delivery, ha, hu]
    have hs : s.advance.supply = t.advance.supply := by
      unfold State.advance; rw [← ha]; split <;> simp [hu]
    simp only [State.deliveries, hd, ih s.advance t.advance (by simp [ha]) hs]

end Sys2Proof.Machine
end

