-- ==== Sys2Proof/Laws/Memory.lean ====
section
/-! SUPPORT. The laws of a buffer's memory: read after write, what a write and a truncation leave alone,
and that both keep the canonical form. -/

namespace Sys2Proof.Machine

@[simp] theorem Memory.read_nil (a : Nat) : Memory.read [] a = Memory.unlisted := rfl

theorem Memory.read_write_same (m : Memory) (a : Nat) (v : Byte) (h : Memory.wf m = true) :
    Memory.read (Memory.write m a v) a = v := by
  induction m with
  | nil => by_cases hv : v = Memory.unlisted <;> simp [Memory.write, Memory.read, hv]
  | cons c rest ih =>
    simp only [Memory.wf, Bool.and_eq_true, List.all_eq_true, decide_eq_true_eq] at h
    obtain ⟨⟨-, hlt⟩, hrest⟩ := h
    have skip : ∀ r : Memory, (∀ d ∈ r, a < d.1) → Memory.read r a = Memory.unlisted := by
      intro r hr
      induction r with
      | nil => rfl
      | cons d r ihr =>
        have := hr d (by simp)
        rw [Memory.read, if_neg (by omega)]
        exact ihr fun e he => hr e (by simp [he])
    unfold Memory.write
    split_ifs with h1 h2 h3 h4
    · rw [h2, Memory.read, if_neg (by omega)]
      exact skip rest fun d hd => by have := hlt d hd; omega
    · simp [Memory.read]
    · rw [h4]
      exact skip rest fun d hd => by have := hlt d hd; omega
    · simp [Memory.read]
    · rw [Memory.read, if_neg (by omega)]
      exact ih hrest

theorem Memory.read_write_other (m : Memory) (a b : Nat) (v : Byte) (h : b ≠ a) :
    Memory.read (Memory.write m a v) b = Memory.read m b := by
  induction m with
  | nil =>
    unfold Memory.write
    split_ifs
    · rfl
    · simp [Memory.read, Ne.symm h]
  | cons c rest ih =>
    unfold Memory.write
    split_ifs with h1 h2 h3 h4
    · rfl
    · simp [Memory.read, Ne.symm h]
    · simp [Memory.read, ← h3, Ne.symm h]
    · simp [Memory.read, ← h3, Ne.symm h]
    · simp [Memory.read, ih]

theorem Memory.mem_write (m : Memory) (a : Nat) (v : Byte) (d : Host.Cell) (h : d ∈ Memory.write m a v) :
    d ∈ m ∨ d = (a, v) := by
  induction m with
  | nil =>
    unfold Memory.write at h
    split_ifs at h <;> simp_all
  | cons c rest ih =>
    unfold Memory.write at h
    split_ifs at h with h1 h2 h3 h4
    · exact .inl h
    · rcases List.mem_cons.mp h with h | h
      · exact .inr h
      · exact .inl h
    · exact .inl (List.mem_cons_of_mem _ h)
    · rcases List.mem_cons.mp h with h | h
      · exact .inr h
      · exact .inl (List.mem_cons_of_mem _ h)
    · rcases List.mem_cons.mp h with h | h
      · exact .inl (by simp [h])
      · rcases ih h with h | h
        · exact .inl (List.mem_cons_of_mem _ h)
        · exact .inr h

theorem Memory.wf_cons (c : Host.Cell) (rest : Memory) :
    Memory.wf (c :: rest) = true ↔
      c.2 ≠ Memory.unlisted ∧ (∀ d ∈ rest, c.1 < d.1) ∧ Memory.wf rest = true := by
  simp [Memory.wf, and_assoc]

theorem Memory.wf_write (m : Memory) (a : Nat) (v : Byte) (h : Memory.wf m = true) :
    Memory.wf (Memory.write m a v) = true := by
  induction m with
  | nil => by_cases hv : v = Memory.unlisted <;> simp [Memory.write, Memory.wf, hv]
  | cons c rest ih =>
    obtain ⟨hc, hlt, hrest⟩ := (Memory.wf_cons c rest).mp h
    unfold Memory.write
    split_ifs with h1 h2 h3 h4
    · exact h
    · refine (Memory.wf_cons _ _).mpr ⟨h2, fun d hd => ?_, h⟩
      rcases List.mem_cons.mp hd with rfl | hd
      · exact h1
      · exact Nat.lt_trans h1 (hlt d hd)
    · exact hrest
    · refine (Memory.wf_cons _ _).mpr ⟨h4, fun d hd => ?_, hrest⟩
      rw [h3]; exact hlt d hd
    · refine (Memory.wf_cons _ _).mpr ⟨hc, fun d hd => ?_, ih hrest⟩
      rcases Memory.mem_write _ _ _ _ hd with hd | rfl
      · exact hlt d hd
      · exact Nat.lt_of_le_of_ne (Nat.le_of_not_lt h1) (Ne.symm h3)

theorem Memory.within_write (m : Memory) (a cap : Nat) (v : Byte) (h : Memory.within m cap = true)
    (ha : a < cap) : Memory.within (Memory.write m a v) cap = true := by
  simp only [Memory.within, List.all_eq_true, decide_eq_true_eq] at *
  intro d hd
  rcases Memory.mem_write _ _ _ _ hd with hd | rfl
  · exact h d hd
  · exact ha

theorem Memory.read_truncate (m : Memory) (n a : Nat) :
    Memory.read (Memory.truncate m n) a = if a < n then Memory.read m a else Memory.unlisted := by
  induction m with
  | nil => simp [Memory.truncate]
  | cons c rest ih =>
    unfold Memory.truncate at *
    by_cases hc : c.1 < n
    · rw [List.filter_cons_of_pos (by simpa using hc)]
      by_cases hk : c.1 = a
      · simp [Memory.read, hk ▸ hc, hk]
      · simp [Memory.read, hk, ih]
    · rw [List.filter_cons_of_neg (by simpa using hc), ih]
      by_cases ha : a < n
      · have hk : c.1 ≠ a := by omega
        simp [Memory.read, ha, hk]
      · simp [ha]

theorem Memory.wf_truncate (m : Memory) (n : Nat) (h : Memory.wf m = true) :
    Memory.wf (Memory.truncate m n) = true := by
  induction m with
  | nil => rfl
  | cons c rest ih =>
    obtain ⟨hc, hlt, hrest⟩ := (Memory.wf_cons c rest).mp h
    unfold Memory.truncate at *
    by_cases hcn : c.1 < n
    · rw [List.filter_cons_of_pos (by simpa using hcn)]
      exact (Memory.wf_cons _ _).mpr ⟨hc, fun d hd => hlt d (List.mem_filter.mp hd).1, ih hrest⟩
    · rw [List.filter_cons_of_neg (by simpa using hcn)]
      exact ih hrest

theorem Memory.within_truncate (m : Memory) (n cap : Nat) (h : n ≤ cap) :
    Memory.within (Memory.truncate m n) cap = true := by
  simp only [Memory.within, Memory.truncate, List.all_eq_true, decide_eq_true_eq, List.mem_filter]
  rintro d ⟨-, hd⟩
  omega

@[simp] theorem Memory.length_bytes (m : Memory) (cap : Nat) : (Memory.bytes m cap).length = cap := by
  simp [Memory.bytes]

theorem bufferOk_iff (m : Memory) (cap : Nat) :
    bufferOk m cap = true ↔ Memory.wf m = true ∧ Memory.within m cap = true := by
  simp [bufferOk]

theorem bufferOk_write (m : Memory) (cap a : Nat) (v : Byte) (h : bufferOk m cap = true) (ha : a < cap) :
    bufferOk (Memory.write m a v) cap = true := by
  obtain ⟨h1, h2⟩ := (bufferOk_iff _ _).mp h
  exact (bufferOk_iff _ _).mpr ⟨Memory.wf_write _ _ _ h1, Memory.within_write _ _ _ _ h2 ha⟩

theorem bufferOk_truncate (m : Memory) (cap n newCap : Nat) (h : bufferOk m cap = true) (hn : n ≤ newCap) :
    bufferOk (Memory.truncate m n) newCap = true := by
  obtain ⟨h1, -⟩ := (bufferOk_iff _ _).mp h
  exact (bufferOk_iff _ _).mpr ⟨Memory.wf_truncate _ _ h1, Memory.within_truncate _ _ _ hn⟩

@[simp] theorem bufferOk_nil (cap : Nat) : bufferOk [] cap = true := rfl

end Sys2Proof.Machine
end

