-- ==== Sys2Proof/Laws/Operands.lean ====
section
/-! SUPPORT. The laws of bits and capacities. -/

namespace Sys2Proof.Machine

theorem bitOf_eq_getLsbD (b : Byte) (k : Nat) : bitOf b k = b.getLsbD k := by
  rw [BitVec.getLsbD, Nat.testBit_eq_decide_div_mod_eq]
  rfl

theorem getLsbD_bitMask (k j : Nat) (hk : k < 8) : (bitMask k).getLsbD j = decide (j = k) := by
  simp only [bitMask, BitVec.getLsbD_ofNat, Nat.testBit_two_pow]
  by_cases h : j = k
  · simp [h, hk]
  · simp [h, Ne.symm h]

/-- Writing bit k changes bit k and no other (R121, R124). -/
theorem bitOf_withBit (b : Byte) (k j : Nat) (v : Bool) (hk : k < 8) (hj : j < 8) :
    bitOf (withBit b k v) j = if j = k then v else bitOf b j := by
  simp only [bitOf_eq_getLsbD, withBit]
  cases v
  · rw [if_neg (by simp), BitVec.getLsbD_and, BitVec.getLsbD_xor, getLsbD_bitMask k j hk]
    have hff : (0xFF#8).getLsbD j = true := by revert hj; revert j; decide
    by_cases h : j = k
    · subst h
      simp [hff]
    · simp [h, hff]
  · rw [if_pos rfl, BitVec.getLsbD_or, getLsbD_bitMask k j hk]
    by_cases h : j = k <;> simp [h]

/-- R125: the bound of SET_BIT is that the bit's byte is at or beyond capacity. -/
theorem capOf_succ (pos : Nat) : capOf (pos + 1) = byteIndex pos + 1 := by
  simp only [capOf, byteIndex]; omega

theorem bitIndex_lt (pos : Nat) : bitIndex pos < 8 := Nat.mod_lt _ (by decide)

end Sys2Proof.Machine
end

