-- ==== Sys2Proof/Laws/Decoder.lean ====
section
/-! SUPPORT. What a decoder step can do, said once (R140, R36): it writes dec_state, rx_index and RX and
nothing else, and returns NOOP, SET or POLL. -/

namespace Sys2Proof.Machine

/-- The payload store writes RX and rx_index and nothing else (R141). -/
theorem storePayload_shape (b : Byte) (s : State) :
    s.storePayload b = { s with rx := (s.storePayload b).rx, rx_index := (s.storePayload b).rx_index } := by
  unfold State.storePayload
  split_ifs <;> rfl

section store
variable (b : Byte) (s : State)

@[simp] theorem storePayload_node_address : (s.storePayload b).node_address = s.node_address := by rw [storePayload_shape]
@[simp] theorem storePayload_rx_cap : (s.storePayload b).rx_cap = s.rx_cap := by rw [storePayload_shape]
@[simp] theorem storePayload_tx_cap : (s.storePayload b).tx_cap = s.tx_cap := by rw [storePayload_shape]
@[simp] theorem storePayload_tx : (s.storePayload b).tx = s.tx := by rw [storePayload_shape]
@[simp] theorem storePayload_dec_state : (s.storePayload b).dec_state = s.dec_state := by rw [storePayload_shape]
@[simp] theorem storePayload_proc_active : (s.storePayload b).proc_active = s.proc_active := by rw [storePayload_shape]
@[simp] theorem storePayload_in_stream : (s.storePayload b).in_stream = s.in_stream := by rw [storePayload_shape]
@[simp] theorem storePayload_out_stream : (s.storePayload b).out_stream = s.out_stream := by rw [storePayload_shape]
@[simp] theorem storePayload_flushed : (s.storePayload b).flushed = s.flushed := by rw [storePayload_shape]
@[simp] theorem storePayload_result : (s.storePayload b).result = s.result := by rw [storePayload_shape]
@[simp] theorem storePayload_script : (s.storePayload b).script = s.script := by rw [storePayload_shape]
@[simp] theorem storePayload_arrivals : (s.storePayload b).arrivals = s.arrivals := by rw [storePayload_shape]
@[simp] theorem storePayload_supply : (s.storePayload b).supply = s.supply := by rw [storePayload_shape]
@[simp] theorem storePayload_cfg : (s.storePayload b).cfg = s.cfg := by rw [storePayload_shape]

end store

theorem storePayload_bufferOk (b : Byte) (s : State) (h : bufferOk s.rx s.rx_cap = true) :
    bufferOk (s.storePayload b).rx s.rx_cap = true := by
  unfold State.storePayload
  split_ifs with hi
  · exact bufferOk_write _ _ _ _ h hi
  · exact h

/-- The payload store touches no byte of RX but the one at the cursor (R141). -/
theorem storePayload_read_other (b : Byte) (s : State) (a : Nat) (h : a ≠ s.rx_index) :
    Memory.read (s.storePayload b).rx a = Memory.read s.rx a := by
  unfold State.storePayload
  split_ifs
  · exact Memory.read_write_other _ _ _ _ h
  · rfl

/-- The kinds a decoder step returns (R29, R140). -/
theorem decodeByte_kind (b : Byte) (s : State) :
    (decodeByte b s).1 = .noop ∨ (decodeByte b s).1 = .set ∨ (decodeByte b s).1 = .poll := by
  unfold decodeByte
  split <;>
    simp only [inScanPreamble1, inScanPreamble2, inScanPreamble3, inReadAddress, inReadCommand,
      inIgnoreCommand, inReadData, inReadEscapedData, inIgnoreData, inIgnoreEscapedData] <;>
    (try split_ifs) <;> simp

/-- Everything a decoder step writes: dec_state, rx_index, and RX through the payload store (R140). -/
theorem decodeByte_shape (b : Byte) (s : State) :
    ∃ (d : DecState) (n : Nat) (m : Memory),
      (decodeByte b s).2 = { s with dec_state := d, rx_index := n, rx := m } ∧
        (m = s.rx ∨ m = (s.storePayload b).rx) := by
  have hs : ∀ d, (s.storePayload b).goto d =
      { s with dec_state := d, rx_index := (s.storePayload b).rx_index, rx := (s.storePayload b).rx } := by
    intro d
    unfold State.storePayload
    split_ifs <;> rfl
  unfold decodeByte
  split <;>
    simp only [inScanPreamble1, inScanPreamble2, inScanPreamble3, inReadAddress, inReadCommand,
      inIgnoreCommand, inReadData, inReadEscapedData, inIgnoreData, inIgnoreEscapedData]
  case h_7 =>
    split_ifs
    · exact ⟨_, _, _, rfl, .inl rfl⟩
    · exact ⟨_, _, _, rfl, .inl rfl⟩
    · exact ⟨s.dec_state, (s.storePayload b).rx_index, _, storePayload_shape b s, .inr rfl⟩
  case h_8 => exact ⟨_, _, _, hs _, .inr rfl⟩
  all_goals
    (try split_ifs) <;> exact ⟨_, _, _, rfl, .inl rfl⟩

/-! The step in each state (R140). -/

section states
variable (b : Byte) (s : State)

theorem decodeByte_scanPreamble1 (h : s.dec_state = .scanPreamble1) : decodeByte b s = inScanPreamble1 b s := by
  simp [decodeByte, h]
theorem decodeByte_scanPreamble2 (h : s.dec_state = .scanPreamble2) : decodeByte b s = inScanPreamble2 b s := by
  simp [decodeByte, h]
theorem decodeByte_scanPreamble3 (h : s.dec_state = .scanPreamble3) : decodeByte b s = inScanPreamble3 b s := by
  simp [decodeByte, h]
theorem decodeByte_readAddress (h : s.dec_state = .readAddress) : decodeByte b s = inReadAddress b s := by
  simp [decodeByte, h]
theorem decodeByte_readCommand (h : s.dec_state = .readCommand) : decodeByte b s = inReadCommand b s := by
  simp [decodeByte, h]
theorem decodeByte_ignoreCommand (h : s.dec_state = .ignoreCommand) : decodeByte b s = inIgnoreCommand b s := by
  simp [decodeByte, h]
theorem decodeByte_readData (h : s.dec_state = .readData) : decodeByte b s = inReadData b s := by
  simp [decodeByte, h]
theorem decodeByte_readEscapedData (h : s.dec_state = .readEscapedData) : decodeByte b s = inReadEscapedData b s := by
  simp [decodeByte, h]
theorem decodeByte_ignoreData (h : s.dec_state = .ignoreData) : decodeByte b s = inIgnoreData b s := by
  simp [decodeByte, h]
theorem decodeByte_ignoreEscapedData (h : s.dec_state = .ignoreEscapedData) : decodeByte b s = inIgnoreEscapedData b s := by
  simp [decodeByte, h]

end states

section frame
variable (b : Byte) (s : State)

@[simp] theorem decodeByte_node_address : (decodeByte b s).2.node_address = s.node_address := by
  obtain ⟨d, n, m, h, -⟩ := decodeByte_shape b s; rw [h]
@[simp] theorem decodeByte_rx_cap : (decodeByte b s).2.rx_cap = s.rx_cap := by
  obtain ⟨d, n, m, h, -⟩ := decodeByte_shape b s; rw [h]
@[simp] theorem decodeByte_tx_cap : (decodeByte b s).2.tx_cap = s.tx_cap := by
  obtain ⟨d, n, m, h, -⟩ := decodeByte_shape b s; rw [h]
@[simp] theorem decodeByte_tx : (decodeByte b s).2.tx = s.tx := by
  obtain ⟨d, n, m, h, -⟩ := decodeByte_shape b s; rw [h]
@[simp] theorem decodeByte_proc_active : (decodeByte b s).2.proc_active = s.proc_active := by
  obtain ⟨d, n, m, h, -⟩ := decodeByte_shape b s; rw [h]
@[simp] theorem decodeByte_in_stream : (decodeByte b s).2.in_stream = s.in_stream := by
  obtain ⟨d, n, m, h, -⟩ := decodeByte_shape b s; rw [h]
@[simp] theorem decodeByte_out_stream : (decodeByte b s).2.out_stream = s.out_stream := by
  obtain ⟨d, n, m, h, -⟩ := decodeByte_shape b s; rw [h]
@[simp] theorem decodeByte_flushed : (decodeByte b s).2.flushed = s.flushed := by
  obtain ⟨d, n, m, h, -⟩ := decodeByte_shape b s; rw [h]
@[simp] theorem decodeByte_result : (decodeByte b s).2.result = s.result := by
  obtain ⟨d, n, m, h, -⟩ := decodeByte_shape b s; rw [h]
@[simp] theorem decodeByte_script : (decodeByte b s).2.script = s.script := by
  obtain ⟨d, n, m, h, -⟩ := decodeByte_shape b s; rw [h]
@[simp] theorem decodeByte_arrivals : (decodeByte b s).2.arrivals = s.arrivals := by
  obtain ⟨d, n, m, h, -⟩ := decodeByte_shape b s; rw [h]
@[simp] theorem decodeByte_supply : (decodeByte b s).2.supply = s.supply := by
  obtain ⟨d, n, m, h, -⟩ := decodeByte_shape b s; rw [h]
@[simp] theorem decodeByte_cfg : (decodeByte b s).2.cfg = s.cfg := by
  obtain ⟨d, n, m, h, -⟩ := decodeByte_shape b s; rw [h]

end frame

theorem decodeByte_bufferOk (b : Byte) (s : State) (h : bufferOk s.rx s.rx_cap = true) :
    bufferOk (decodeByte b s).2.rx s.rx_cap = true := by
  obtain ⟨d, n, m, he, hm⟩ := decodeByte_shape b s
  rw [he]
  rcases hm with rfl | rfl
  · exact h
  · exact storePayload_bufferOk b s h

/-- The decoder over two sequences, one after the other (R158). -/
theorem decodeRun_append (xs ys : List Byte) (s : State) :
    decodeRun (xs ++ ys) s =
      ((decodeRun xs s).1 ++ (decodeRun ys (decodeRun xs s).2).1, (decodeRun ys (decodeRun xs s).2).2) := by
  induction xs generalizing s with
  | nil => rfl
  | cons x xs ih => simp [decodeRun, ih]

/-- The kind a decoder step returns, and its next state, depend on dec_state and node_address alone. -/
theorem decodeByte_kind_congr (b : Byte) (s t : State) (hd : s.dec_state = t.dec_state)
    (hn : s.node_address = t.node_address) :
    (decodeByte b s).1 = (decodeByte b t).1 ∧
      (decodeByte b s).2.dec_state = (decodeByte b t).2.dec_state := by
  cases h : t.dec_state <;> rw [h] at hd <;>
    simp only [decodeByte, hd, h, inScanPreamble1, inScanPreamble2, inScanPreamble3, inReadAddress,
      inReadCommand, inIgnoreCommand, inReadData, inReadEscapedData, inIgnoreData, inIgnoreEscapedData, hn] <;>
    (try split_ifs) <;> simp_all

/-- So do the kinds of a byte sequence (R158). -/
theorem decodeRun_kinds_congr (bs : List Byte) (s t : State) (hd : s.dec_state = t.dec_state)
    (hn : s.node_address = t.node_address) : (decodeRun bs s).1 = (decodeRun bs t).1 := by
  induction bs generalizing s t with
  | nil => rfl
  | cons b bs ih =>
    obtain ⟨h1, h2⟩ := decodeByte_kind_congr b s t hd hn
    simp only [decodeRun, h1, ih _ _ h2 (by simpa using hn)]

/-- RX after the payload store, byte by byte (R141). -/
theorem read_storePayload (b : Byte) (s : State) (hb : bufferOk s.rx s.rx_cap = true) (a : Nat) :
    Memory.read (s.storePayload b).rx a =
      if s.rx_index < s.rx_cap ∧ a = s.rx_index then b else Memory.read s.rx a := by
  by_cases ha : a = s.rx_index
  · subst ha
    unfold State.storePayload
    obtain ⟨hw, -⟩ := (bufferOk_iff _ _).mp hb
    by_cases h : s.rx_index < s.rx_cap
    · simp [h, Memory.read_write_same _ _ _ hw]
    · simp [h]
  · simp [ha, storePayload_read_other]

end Sys2Proof.Machine
end

