-- ==== Sys2Proof/Laws/Encoder.lean ====
section
/-! SUPPORT. What ENCODE does, said once: its byte-at-a-time writing in closed form. -/

namespace Sys2Proof.Machine

theorem writeEscaped_eq (s : State) (b : Byte) :
    writeEscaped s b = { s with out_stream := s.out_stream ++ Wire.escapeByte b } := by
  unfold writeEscaped Wire.escapeByte State.writeByte
  split_ifs <;> simp

theorem foldl_writeEscaped (is : List Nat) (s : State) :
    is.foldl (fun t i => writeEscaped t (Memory.read t.tx i)) s =
      { s with out_stream := s.out_stream ++ Wire.escape (is.map (Memory.read s.tx)) } := by
  induction is generalizing s with
  | nil => simp [Wire.escape]
  | cons i is ih =>
    rw [List.foldl_cons, ih, writeEscaped_eq]
    simp [Wire.escape]

/-- Everything ENCODE does: one frame appended, and flushed (R180 to R182). -/
theorem encodeResponse_eq (s : State) :
    encodeResponse s =
      { s with
        out_stream := s.out_stream ++
          Wire.frameBytes (Wire.addrByte s.node_address) Wire.CMD_GET (Memory.bytes s.tx s.tx_cap)
        flushed := (s.out_stream ++
          Wire.frameBytes (Wire.addrByte s.node_address) Wire.CMD_GET
            (Memory.bytes s.tx s.tx_cap)).length } := by
  unfold encodeResponse writeTx
  simp only [foldl_writeEscaped]
  simp [State.delay, State.writeByte, State.flush, Memory.bytes, Wire.frameBytes]

end Sys2Proof.Machine
end

