-- ==== Sys2Proof/Laws/Session.lean ====
section
/-! SUPPORT. What the handling of a byte and an iteration of PROCESS can do, said once. -/

namespace Sys2Proof.Machine

/-- A byte that does not complete a POLL: the decoder step, with its kind returned. -/
theorem receiveByte_not_poll (b : Byte) (s : State) (h : (decodeByte b s).1 ≠ .poll) :
    receiveByte b s = (decodeByte b s).2.ret (.kind (decodeByte b s).1) := by
  simp [receiveByte, h]

/-- A byte that completes a POLL: the decoder step and one response (R192). -/
theorem receiveByte_poll (b : Byte) (s : State) (h : (decodeByte b s).1 = .poll) :
    receiveByte b s = (encodeResponse (decodeByte b s).2).ret (.kind .poll) := by
  simp [receiveByte, h]

@[simp] theorem receiveByte_result (b : Byte) (s : State) :
    (receiveByte b s).result = .kind (decodeByte b s).1 := rfl

/-- What the handling of one byte writes: the decoder's registers and RX, and the output on a POLL. -/
theorem receiveByte_shape (b : Byte) (s : State) :
    ∃ (d : DecState) (n : Nat) (m : Memory) (o : List Byte) (f : Nat),
      receiveByte b s = { s with
        dec_state := d, rx_index := n, rx := m, out_stream := o, flushed := f
        result := .kind (decodeByte b s).1 } ∧
      (m = s.rx ∨ m = (s.storePayload b).rx) ∧
      ((decodeByte b s).1 ≠ .poll ∧ o = s.out_stream ∧ f = s.flushed ∨ (decodeByte b s).1 = .poll ∧ f = o.length ∧
        o = s.out_stream ++
          Wire.frameBytes (Wire.addrByte s.node_address) Wire.CMD_GET (Memory.bytes s.tx s.tx_cap)) := by
  obtain ⟨d, n, m, h, hm⟩ := decodeByte_shape b s
  by_cases hp : (decodeByte b s).1 = .poll
  · refine ⟨d, n, m, _, _, ?_, hm, .inr ⟨hp, rfl, rfl⟩⟩
    rw [receiveByte_poll b s hp, encodeResponse_eq, h, hp]
    rfl
  · refine ⟨d, n, m, s.out_stream, s.flushed, ?_, hm, .inl ⟨hp, rfl, rfl⟩⟩
    rw [receiveByte_not_poll b s hp, h]
    rfl

section frame
variable (b : Byte) (s : State)

@[simp] theorem receiveByte_proc_active : (receiveByte b s).proc_active = s.proc_active := by
  obtain ⟨d, n, m, o, f, h, -⟩ := receiveByte_shape b s; rw [h]
@[simp] theorem receiveByte_in_stream : (receiveByte b s).in_stream = s.in_stream := by
  obtain ⟨d, n, m, o, f, h, -⟩ := receiveByte_shape b s; rw [h]
@[simp] theorem receiveByte_script : (receiveByte b s).script = s.script := by
  obtain ⟨d, n, m, o, f, h, -⟩ := receiveByte_shape b s; rw [h]
@[simp] theorem receiveByte_arrivals : (receiveByte b s).arrivals = s.arrivals := by
  obtain ⟨d, n, m, o, f, h, -⟩ := receiveByte_shape b s; rw [h]
@[simp] theorem receiveByte_supply : (receiveByte b s).supply = s.supply := by
  obtain ⟨d, n, m, o, f, h, -⟩ := receiveByte_shape b s; rw [h]

end frame

/-- The transport's move: its delivery is appended and its schedule moves on. -/
theorem arrive_eq (s : State) :
    s.arrive = { s with
      in_stream := s.in_stream ++ s.delivery, arrivals := s.arrivals.tail, supply := s.advance.supply } := by
  unfold State.arrive
  rw [State.advance_eq]
  rfl

/-- The two ways an iteration ends: the call returns NOOP with nothing available, or one byte is handled. -/
theorem processIteration_cases (s : State) :
    (s.arrive.in_stream = [] ∧
      processIteration s = (s.arrive.setActive false).ret (.kind .noop)) ∨
    ∃ b left, s.arrive.in_stream = b :: left ∧
      processIteration s = endIteration (receiveByte b (s.arrive.setInput left)) := by
  unfold processIteration
  cases h : s.arrive.in_stream with
  | nil => exact .inl ⟨rfl, by simp [h]⟩
  | cons b left => exact .inr ⟨b, left, rfl, by simp [h]⟩

/-- The end of an iteration writes proc_active and nothing else. -/
theorem endIteration_shape (s : State) : ∃ v, endIteration s = { s with proc_active := v } := by
  unfold endIteration
  split_ifs
  · exact ⟨s.proc_active, rfl⟩
  · exact ⟨false, rfl⟩

end Sys2Proof.Machine
end

