-- ==== Sys2Proof/Laws/Encoding.lean ====
section
/-! SUPPORT. The laws of the wire encoding: the receiver's unescaping inverts the sender's escaping (R84). -/

namespace Sys2Proof

@[simp] theorem Wire.etx_ne_esc : Wire.ETX ≠ Wire.ESC := by decide

@[simp] theorem Wire.esc_ne_etx : Wire.ESC ≠ Wire.ETX := by decide

/-- R84: `Escape` is inverted, and the bytes after the ETX are left. -/
theorem unescape_escape (payload rest : List Byte) :
    unescape false (Wire.escape payload ++ Wire.ETX :: rest) = some (payload, rest) := by
  induction payload with
  | nil => simp [Wire.escape, unescape]
  | cons p ps ih =>
    have hcons : Wire.escape (p :: ps) = Wire.escapeByte p ++ Wire.escape ps := by simp [Wire.escape]
    rw [hcons]
    unfold Wire.escapeByte
    split_ifs with hp
    · simp [unescape, ih]
    · obtain ⟨h3, h10⟩ := not_or.mp hp
      simp [unescape, ih, h3, h10]

@[simp] theorem decodeCmd_cmdByte (c : Cmd) : decodeCmd (Wire.cmdByte c) = some c := by
  cases c <;> decide

end Sys2Proof
end

