-- ==== Sys2Proof/Laws/PerInstr.lean ====
section
/-! SUPPORT. The family `Encoding`: every well-formed instruction is decoded from its own encoding (30_encoding.md
R80 to R101; 41_frame_decoder.md R152), one lemma per constructor. -/

namespace Sys2Proof.Laws.Encoding

/-- Decoding an instruction's encoding gives it back, if it is well formed. -/
def Statement (i : Sys2Proof.Instr) : Prop :=
  i.wf = true → Sys2Proof.decode (Sys2Proof.encode i) = .ok i

theorem pre : Statement .pre := fun _ => rfl

theorem stx : Statement .stx := fun _ => rfl

theorem etx : Statement .etx := fun _ => rfl

theorem esc : Statement .esc := fun _ => rfl

theorem cmdInit : Statement .cmdInit := fun _ => rfl

theorem cmdSet : Statement .cmdSet := fun _ => rfl

theorem cmdGet : Statement .cmdGet := fun _ => rfl

theorem cmdPoll : Statement .cmdPoll := fun _ => rfl

theorem addr (b : Byte) : Statement (.addr b) := by
  intro h
  simp only [Instr.wf] at h
  simp [Sys2Proof.encode, Sys2Proof.decode, decodeWireByteAt, h]

theorem frame (a : Byte) (c : Cmd) (p : List Byte) : Statement (.frame a c p) := by
  intro h
  simp only [Instr.wf, Bool.and_eq_true] at h
  simp only [Sys2Proof.encode, Sys2Proof.decode, Wire.frameBytes, List.cons_append, List.nil_append, decodeFrame]
  simp [h.1, h.2, unescape_escape]

theorem decSp1Ff : Statement .decSp1Ff := fun _ => rfl

theorem decSp1Any (b : Byte) : Statement (.decSp1Any b) := by
  intro h
  simp [Instr.wf] at h
  simp [Sys2Proof.encode, Sys2Proof.decode, decodeCell, h]

theorem decSp2Ff : Statement .decSp2Ff := fun _ => rfl

theorem decSp2Any (b : Byte) : Statement (.decSp2Any b) := by
  intro h
  simp [Instr.wf] at h
  simp [Sys2Proof.encode, Sys2Proof.decode, decodeCell, h]

theorem decSp3Stx : Statement .decSp3Stx := fun _ => rfl

theorem decSp3Any (b : Byte) : Statement (.decSp3Any b) := by
  intro h
  simp [Instr.wf] at h
  simp [Sys2Proof.encode, Sys2Proof.decode, decodeCell, h]

theorem decRaMatch (b : Byte) : Statement (.decRaMatch b) := by
  intro h
  simp only [Instr.wf, isAddrByte, decide_eq_true_eq] at h
  have hm : b.toNat = Wire.addrNat (b.toNat - Wire.CH_A.toNat) := by
    unfold Wire.addrNat
    omega
  simp only [Sys2Proof.encode, Sys2Proof.decode, decodeCell]
  rw [if_pos hm]

theorem decRaForeign (b : Byte) : Statement (.decRaForeign b) := by
  intro h
  simp only [Instr.wf] at h
  have hne : b.toNat ≠ Wire.addrNat (if b = Wire.CH_A then 1 else 0) := by
    by_cases hb : b = Wire.CH_A
    · rw [if_pos hb, hb]; decide
    · rw [if_neg hb]
      intro he
      exact hb (BitVec.eq_of_toNat_eq (by rw [he]; rfl))
  simp only [Sys2Proof.encode, Sys2Proof.decode, decodeCell]
  rw [if_neg hne, if_pos h]

theorem decRaAny (b : Byte) : Statement (.decRaAny b) := by
  intro h
  simp only [Instr.wf, Bool.not_eq_true'] at h
  have hne : b.toNat ≠ Wire.addrNat 0 := by
    intro he
    simp only [isAddrByte, he, Wire.addrNat, Nat.add_zero, Nat.le_refl, decide_true] at h
    cases h
  simp only [Sys2Proof.encode, Sys2Proof.decode, decodeCell]
  rw [if_neg hne, if_neg (by simp [h])]

theorem decRcSet : Statement .decRcSet := fun _ => rfl

theorem decRcPoll : Statement .decRcPoll := fun _ => rfl

theorem decRcAny (b : Byte) : Statement (.decRcAny b) := by
  intro h
  simp [Instr.wf] at h
  simp [Sys2Proof.encode, Sys2Proof.decode, decodeCell, h]

theorem decIcAny (b : Byte) : Statement (.decIcAny b) := fun _ => rfl

theorem decRdEsc : Statement .decRdEsc := fun _ => rfl

theorem decRdEtx : Statement .decRdEtx := fun _ => rfl

theorem decRdAny (b : Byte) : Statement (.decRdAny b) := by
  intro h
  simp [Instr.wf] at h
  simp [Sys2Proof.encode, Sys2Proof.decode, decodeCell, h]

theorem decReAny (b : Byte) : Statement (.decReAny b) := fun _ => rfl

theorem decIdEsc : Statement .decIdEsc := fun _ => rfl

theorem decIdEtx : Statement .decIdEtx := fun _ => rfl

theorem decIdAny (b : Byte) : Statement (.decIdAny b) := by
  intro h
  simp [Instr.wf] at h
  simp [Sys2Proof.encode, Sys2Proof.decode, decodeCell, h]

theorem decIeAny (b : Byte) : Statement (.decIeAny b) := fun _ => rfl

theorem reset (a : Nat) (i : Nat) (o : Nat) : Statement (.reset a i o) := fun _ => rfl

theorem setAddress (a : Nat) : Statement (.setAddress a) := fun _ => rfl

theorem resize (i : Nat) (o : Nat) : Statement (.resize i o) := fun _ => rfl

theorem getBit (p : Nat) : Statement (.getBit p) := fun _ => rfl

theorem getByte (p : Nat) : Statement (.getByte p) := fun _ => rfl

theorem setBit (p : Nat) (v : Bool) : Statement (.setBit p v) := fun _ => rfl

theorem setByte (p : Nat) (v : Byte) : Statement (.setByte p v) := fun _ => rfl

theorem process : Statement .process := fun _ => rfl

theorem decodeStep (b : Byte) : Statement (.decodeStep b) := fun _ => rfl

theorem encode : Statement .encode := fun _ => rfl

end Sys2Proof.Laws.Encoding
end

