-- ==== Sys2Proof/Certificates/Slice0/Obligations.lean ====
section
/-! DEFINITION. The statements for the provers. Each docstring names the rules of spec/ it formalises. -/

open Sys2Proof Sys2Proof.Machine

/-! ## Encodings -/

/-- R80, R81, R82, R83, R84: the fixed wire bytes, and an address byte, decode to the table's rows. That a
byte is read without its place in a frame, the fixed codes first, is the model's own choice (log entry 13),
since R86 makes its meaning depend on dec_state alone. The byte 0x49 is presumed (log entry 27). -/
def Obligations.WireWordsDecodeToTableRows : Prop :=
  decodeTableWord 8 0xFF = some .pre ∧ decodeTableWord 8 0x02 = some .stx ∧
  decodeTableWord 8 0x03 = some .etx ∧ decodeTableWord 8 0x10 = some .esc ∧
  decodeTableWord 8 0x49 = some .cmdInit ∧ decodeTableWord 8 0x54 = some .cmdSet ∧
  decodeTableWord 8 0x52 = some .cmdGet ∧ decodeTableWord 8 0x50 = some .cmdPoll ∧
  decodeTableWord 8 0x43 = some (.addr 0x43#8) ∧
  decodeFrame [0xFF#8, 0xFF#8, 0x02#8, 0x43#8, 0x54#8, 0x10#8, 0x03#8, 0x5A#8, 0x03#8] =
    .ok (.frame 0x43#8 .set [0x03#8, 0x5A#8], [])

/-- R80, R83, R84, R85: a frame of any payload is read back from its bytes, whatever follows it. -/
def Obligations.FrameDecodeInvertsEncode : Prop :=
  ∀ (a : Byte) (c : Cmd) (payload rest : List Byte),
    0x41 ≤ a.toNat → (payload ≠ [] → c = .set ∨ c = .get) →
      ∃ bytes, encode (.frame a c payload) = .wireFrame bytes ∧
        decodeFrame (bytes ++ rest) = .ok (.frame a c payload, rest) ∧
        bytes.length = 6 + payload.length +
          payload.countP (fun p => p = 0x03#8 ∨ p = 0x10#8)

/-- R152: every state and byte has a row; it is well formed and its encoding is that state and byte. -/
def Obligations.EveryCellHasItsRow : Prop :=
  ∀ (node : Nat) (st : DecState) (b : Byte),
    (decodeCell node st b).wf = true ∧ ∃ n, encode (decodeCell node st b) = .cell n st b

/-- R100, R101: a request that decodes has one meaning, and that operation's encoding is the request. Log
entry 14. -/
def Obligations.RequestHasOneMeaning : Prop :=
  ∀ (r : Request) (i : Instr), decodeRequest r = .ok i → encode i = .request r ∧
    ∀ r', decodeRequest r' = .ok i → r' = r

/-! ## The decoder, state by state -/

/-- R142, R143: the two states that hunt for the preamble marks. -/
def Obligations.ScanStatesHuntForPreamble : Prop :=
  ∀ (b : Byte) (s : State),
    (s.dec_state = .scanPreamble1 → exec (.decodeStep b) s = .next { s with
      dec_state := if b = 0xFF#8 then .scanPreamble2 else .scanPreamble1
      result := .kind .noop }) ∧
    (s.dec_state = .scanPreamble2 → exec (.decodeStep b) s = .next { s with
      dec_state := if b = 0xFF#8 then .scanPreamble3 else .scanPreamble1
      result := .kind .noop })

/-- R144: the third scanning state, and a run of k marks followed by STX. -/
def Obligations.PreambleRunsCountModuloThree : Prop :=
  (∀ (b : Byte) (s : State), s.dec_state = .scanPreamble3 → exec (.decodeStep b) s = .next { s with
      dec_state := if b = 0x02#8 then .readAddress else .scanPreamble1
      result := .kind .noop }) ∧
  (∀ (k : Nat) (s : State), s.dec_state = .scanPreamble1 →
    decodeRun (List.replicate k 0xFF#8) s = (List.replicate k .noop, { s with
      dec_state := if k % 3 = 1 then .scanPreamble2 else if k % 3 = 2 then .scanPreamble3
        else .scanPreamble1 }) ∧
    ((decodeRun (List.replicate k 0xFF#8 ++ [0x02#8]) s).2.dec_state = .readAddress ↔ k % 3 = 2))

/-- R145: the three classes of a byte in the address state, and the ignore flag. Unsigned comparison: decision
D2. -/
def Obligations.AddressByteIsClassified : Prop :=
  ∀ (b : Byte) (s : State), s.dec_state = .readAddress →
    (b.toNat = 0x41 + s.node_address → exec (.decodeStep b) s = .next { s with
      dec_state := .readCommand, result := .kind .noop }) ∧
    (b.toNat ≠ 0x41 + s.node_address → 0x41 ≤ b.toNat →
      ∃ t, exec (.decodeStep b) s = .next t ∧
        t = { s with dec_state := .ignoreCommand, result := .kind .noop } ∧ t.ignoring = true) ∧
    (b.toNat < 0x41 → exec (.decodeStep b) s = .next { s with
      dec_state := .scanPreamble1, result := .kind .noop })

/-- R146: SET begins a payload, POLL is emitted on its command byte, anything else is abandoned. Abandoned:
decision D5. -/
def Obligations.CommandByteActs : Prop :=
  ∀ (b : Byte) (s : State), s.dec_state = .readCommand →
    (b = 0x54#8 → exec (.decodeStep b) s = .next { s with
      dec_state := .readData, rx_index := 0, result := .kind .noop }) ∧
    (b = 0x50#8 → exec (.decodeStep b) s = .next { s with
      dec_state := .scanPreamble1, result := .kind .poll }) ∧
    (b ≠ 0x54#8 → b ≠ 0x50#8 → exec (.decodeStep b) s = .next { s with
      dec_state := .scanPreamble1, result := .kind .noop })

/-- R141, R148, R149: the payload states, with the payload store. -/
def Obligations.PayloadBytesAreStored : Prop :=
  ∀ (b : Byte) (s : State), bufferOk s.rx s.rx_cap = true →
    (s.dec_state = .readData → b = 0x10#8 → exec (.decodeStep b) s = .next { s with
      dec_state := .readEscapedData, result := .kind .noop }) ∧
    (s.dec_state = .readData → b = 0x03#8 → exec (.decodeStep b) s = .next { s with
      dec_state := .scanPreamble1, result := .kind .set }) ∧
    ((s.dec_state = .readData ∧ b ≠ 0x10#8 ∧ b ≠ 0x03#8 ∨ s.dec_state = .readEscapedData) →
      ∃ t, exec (.decodeStep b) s = .next t ∧ StoresPayload b s t ∧
        t = { s with rx := t.rx, rx_index := t.rx_index, dec_state := .readData
                     result := .kind .noop })

/-- R147, R150, R151: the states that skip a foreign frame, and the ignore flag. -/
def Obligations.ForeignFrameStatesSkip : Prop :=
  ∀ (b : Byte) (s : State),
    (s.dec_state = .ignoreCommand → ∃ t, exec (.decodeStep b) s = .next t ∧
      t = { s with dec_state := .ignoreData, result := .kind .noop } ∧
      s.ignoring = true ∧ t.ignoring = true) ∧
    (s.dec_state = .ignoreData → ∃ t, exec (.decodeStep b) s = .next t ∧
      t = { s with
        dec_state := if b = 0x10#8 then .ignoreEscapedData else if b = 0x03#8 then .scanPreamble1
          else .ignoreData
        result := .kind .noop } ∧
      s.ignoring = true ∧ (t.ignoring = false ↔ b = 0x03#8)) ∧
    (s.dec_state = .ignoreEscapedData → ∃ t, exec (.decodeStep b) s = .next t ∧
      t = { s with dec_state := .ignoreData, result := .kind .noop } ∧
      s.ignoring = true ∧ t.ignoring = true)

/-! ## The decode table's rows -/

/-- R142, R143, R144, R152: the rows of the scanning states. -/
def Obligations.ScanRowsAct : Prop :=
  ∀ (b : Byte) (s : State),
    (s.dec_state = .scanPreamble1 →
      exec .decSp1Ff s = .next { s with dec_state := .scanPreamble2, result := .kind .noop } ∧
      (b ≠ 0xFF#8 → exec (.decSp1Any b) s = .next { s with
        dec_state := .scanPreamble1, result := .kind .noop })) ∧
    (s.dec_state = .scanPreamble2 →
      exec .decSp2Ff s = .next { s with dec_state := .scanPreamble3, result := .kind .noop } ∧
      (b ≠ 0xFF#8 → exec (.decSp2Any b) s = .next { s with
        dec_state := .scanPreamble1, result := .kind .noop })) ∧
    (s.dec_state = .scanPreamble3 →
      exec .decSp3Stx s = .next { s with dec_state := .readAddress, result := .kind .noop } ∧
      (b ≠ 0x02#8 → exec (.decSp3Any b) s = .next { s with
        dec_state := .scanPreamble1, result := .kind .noop }))

/-- R145, R152: the rows of the address state. Unsigned comparison: decision D2. -/
def Obligations.AddressRowsAct : Prop :=
  ∀ (b : Byte) (s : State), s.dec_state = .readAddress →
    (b.toNat = 0x41 + s.node_address → exec (.decRaMatch b) s = .next { s with
      dec_state := .readCommand, result := .kind .noop }) ∧
    (b.toNat ≠ 0x41 + s.node_address → 0x41 ≤ b.toNat → exec (.decRaForeign b) s = .next { s with
      dec_state := .ignoreCommand, result := .kind .noop }) ∧
    (b.toNat < 0x41 → exec (.decRaAny b) s = .next { s with
      dec_state := .scanPreamble1, result := .kind .noop })

/-- R146, R152: the rows of the command state. Decision D5. -/
def Obligations.CommandRowsAct : Prop :=
  ∀ (b : Byte) (s : State), s.dec_state = .readCommand →
    exec .decRcSet s = .next { s with dec_state := .readData, rx_index := 0, result := .kind .noop } ∧
    exec .decRcPoll s = .next { s with dec_state := .scanPreamble1, result := .kind .poll } ∧
    (b ≠ 0x54#8 → b ≠ 0x50#8 → exec (.decRcAny b) s = .next { s with
      dec_state := .scanPreamble1, result := .kind .noop })

/-- R148, R149, R141, R152: the rows of the payload states. -/
def Obligations.PayloadRowsAct : Prop :=
  ∀ (b : Byte) (s : State), bufferOk s.rx s.rx_cap = true →
    (s.dec_state = .readData →
      exec .decRdEsc s = .next { s with dec_state := .readEscapedData, result := .kind .noop } ∧
      exec .decRdEtx s = .next { s with dec_state := .scanPreamble1, result := .kind .set } ∧
      (b ≠ 0x10#8 → b ≠ 0x03#8 → ∃ t, exec (.decRdAny b) s = .next t ∧ StoresPayload b s t ∧
        t = { s with rx := t.rx, rx_index := t.rx_index, dec_state := .readData
                     result := .kind .noop })) ∧
    (s.dec_state = .readEscapedData → ∃ t, exec (.decReAny b) s = .next t ∧ StoresPayload b s t ∧
      t = { s with rx := t.rx, rx_index := t.rx_index, dec_state := .readData, result := .kind .noop })

/-- R147, R150, R151, R152: the rows of the states that skip a foreign frame. -/
def Obligations.ForeignRowsAct : Prop :=
  ∀ (b : Byte) (s : State),
    (s.dec_state = .ignoreCommand → exec (.decIcAny b) s = .next { s with
      dec_state := .ignoreData, result := .kind .noop }) ∧
    (s.dec_state = .ignoreData →
      exec .decIdEsc s = .next { s with dec_state := .ignoreEscapedData, result := .kind .noop } ∧
      exec .decIdEtx s = .next { s with dec_state := .scanPreamble1, result := .kind .noop } ∧
      (b ≠ 0x10#8 → b ≠ 0x03#8 → exec (.decIdAny b) s = .next { s with
        dec_state := .ignoreData, result := .kind .noop })) ∧
    (s.dec_state = .ignoreEscapedData → exec (.decIeAny b) s = .next { s with
      dec_state := .ignoreData, result := .kind .noop })

/-- R152: the union of the state rules is the decode table: DECODE_STEP takes the row the byte selects. -/
def Obligations.DecodeStepTakesSelectedRow : Prop :=
  ∀ (b : Byte) (s : State),
    exec (.decodeStep b) s = exec (decodeCell s.node_address s.dec_state b) s

/-- R214: at most one row applies. That a row tried elsewhere leaves the state as it was is the model's own
choice (log entry 12). -/
def Obligations.OtherRowsChangeNothing : Prop :=
  ∀ (i : Instr) (n : Nat) (st : DecState) (b : Byte) (s : State),
    i.wf = true → encode i = .cell n st b → i ≠ decodeCell s.node_address s.dec_state b →
      exec i s = .next s

/-! ## The decoder over byte sequences -/

/-- R153: the transitions on which the decoder returns to scanning, exactly. Decisions D2, D5. -/
def Obligations.FrameEndsExactlyHere : Prop :=
  ∀ (b : Byte) (s : State), s.dec_state ≠ .scanPreamble1 →
    ∃ t, exec (.decodeStep b) s = .next t ∧
      (t.dec_state = .scanPreamble1 ↔
        (s.dec_state = .readData ∧ b = 0x03#8 ∧ t.result = .kind .set) ∨
        (s.dec_state = .readCommand ∧ b = 0x50#8 ∧ t.result = .kind .poll) ∨
        (s.dec_state = .readCommand ∧ b ≠ 0x50#8 ∧ b ≠ 0x54#8 ∧ t.result = .kind .noop) ∨
        (s.dec_state = .ignoreData ∧ b = 0x03#8 ∧ t.result = .kind .noop) ∨
        (s.dec_state = .scanPreamble2 ∧ b ≠ 0xFF#8 ∧ t.result = .kind .noop) ∨
        (s.dec_state = .scanPreamble3 ∧ b ≠ 0x02#8 ∧ t.result = .kind .noop) ∨
        (s.dec_state = .readAddress ∧ b.toNat < 0x41 ∧ t.result = .kind .noop))

/-- R154, 90_conflicts.md C3: from every state, two ETX bytes bring the decoder back to scanning, and one
is enough unless it is shielded or stands in the CMD place of a foreign frame. -/
def Obligations.TwoTerminatorsResynchronise : Prop :=
  ∀ (s : State),
    (decodeRun [0x03#8, 0x03#8] s).2.dec_state = .scanPreamble1 ∧
    ((decodeRun [0x03#8] s).2.dec_state = .scanPreamble1 ↔
      s.dec_state ≠ .readEscapedData ∧ s.dec_state ≠ .ignoreEscapedData ∧
        s.dec_state ≠ .ignoreCommand)

/-- R259: without an unescaped ETX a payload goes on for as long as the input does, and completes nothing,
in a frame for this node and in a foreign one; `unescape` finds an ETX exactly if it is not shielded. -/
def Obligations.LostTerminatorSwallowsInput : Prop :=
  ∀ (bs : List Byte) (s : State),
    (s.dec_state = .readData ∧ unescape false bs = none ∨
        s.dec_state = .readEscapedData ∧ unescape true bs = none →
      ((decodeRun bs s).2.dec_state = .readData ∨ (decodeRun bs s).2.dec_state = .readEscapedData) ∧
      ∀ k ∈ (decodeRun bs s).1, k = .noop) ∧
    (s.dec_state = .ignoreData ∧ unescape false bs = none ∨
        s.dec_state = .ignoreEscapedData ∧ unescape true bs = none →
      ((decodeRun bs s).2.dec_state = .ignoreData ∨
        (decodeRun bs s).2.dec_state = .ignoreEscapedData) ∧
      ∀ k ∈ (decodeRun bs s).1, k = .noop)

/-- R155: the round trip of a SET frame, for every payload, overlong ones included. -/
def Obligations.SetFrameRoundTrip : Prop :=
  ∀ (payload : List Byte) (s : State),
    s.dec_state = .scanPreamble1 → s.node_address ≤ 190 → bufferOk s.rx s.rx_cap = true →
    let bytes := [0xFF#8, 0xFF#8, 0x02#8, BitVec.ofNat 8 (0x41 + s.node_address), 0x54#8] ++
      Wire.escape payload ++ [0x03#8]
    let r := decodeRun bytes s
    r.1 = List.replicate (bytes.length - 1) .noop ++ [.set] ∧
    (∀ j, Memory.read r.2.rx j =
      if j < min payload.length s.rx_cap then payload.getD j 0x00#8 else Memory.read s.rx j) ∧
    r.2 = { s with rx := r.2.rx, rx_index := min payload.length s.rx_cap }

/-- R141, R36: whatever bytes arrive, the decoder writes no byte of RX at or beyond its capacity and
nothing but dec_state, rx_index and RX. -/
def Obligations.DecoderStaysInsideRx : Prop :=
  ∀ (bs : List Byte) (s : State),
    (∀ a, s.rx_cap ≤ a → Memory.read (decodeRun bs s).2.rx a = Memory.read s.rx a) ∧
    (decodeRun bs s).2 = { s with
      dec_state := (decodeRun bs s).2.dec_state
      rx_index := (decodeRun bs s).2.rx_index
      rx := (decodeRun bs s).2.rx }

/-- R140, R158: what the decoder does on any bytes depends on dec_state, rx_index, rx_cap and node_address
alone: two states that agree on these return the same kinds, end in the same decoder registers, and at
every address of RX both hold what they held or both hold the same byte. -/
def Obligations.DecoderDependsOnFourRegisters : Prop :=
  ∀ (bs : List Byte) (s t : State),
    s.dec_state = t.dec_state → s.rx_index = t.rx_index → s.rx_cap = t.rx_cap →
    s.node_address = t.node_address → bufferOk s.rx s.rx_cap = true → bufferOk t.rx t.rx_cap = true →
    let u := decodeRun bs s
    let v := decodeRun bs t
    u.1 = v.1 ∧ u.2.dec_state = v.2.dec_state ∧ u.2.rx_index = v.2.rx_index ∧
    ∀ a, Memory.read u.2.rx a = Memory.read v.2.rx a ∨
      (Memory.read u.2.rx a = Memory.read s.rx a ∧ Memory.read v.2.rx a = Memory.read t.rx a)

/-- R210, R211: each error class of a byte is absorbed by its ordinary transition, with nothing recorded.
Noise in ReadCommand: decision D5 (log entry 23). Foreign bytes 0x80..0xFF: decision D2 (log entry 21). -/
def Obligations.ErrorClassesAreAbsorbed : Prop :=
  ∀ (b : Byte) (s : State),
    (decodeErrorClass b s = some .noise → exec (.decodeStep b) s = .next { s with
      dec_state := .scanPreamble1, result := .kind .noop }) ∧
    (decodeErrorClass b s = some .foreign → exec (.decodeStep b) s = .next { s with
      dec_state := .ignoreCommand, result := .kind .noop }) ∧
    (decodeErrorClass b s = some .overlong → exec (.decodeStep b) s = .next { s with
      dec_state := .readData, result := .kind .noop }) ∧
    decodeErrorClass b s ≠ some .oob

/-! ## Wire bytes and frames received -/

/-- R80, R81, R142 to R145: the bytes of a frame's header received in their places; the address byte in its
three classes. Decision D2. Log entry 10. -/
def Obligations.HeaderBytesReceived : Prop :=
  ∀ (b : Byte) (s : State),
    (s.dec_state = .scanPreamble1 → exec .pre s = .next { s with
      dec_state := .scanPreamble2, result := .kind .noop }) ∧
    (s.dec_state = .scanPreamble2 → exec .pre s = .next { s with
      dec_state := .scanPreamble3, result := .kind .noop }) ∧
    (s.dec_state = .scanPreamble3 → exec .stx s = .next { s with
      dec_state := .readAddress, result := .kind .noop }) ∧
    (s.dec_state = .readAddress → exec (.addr b) s = .next { s with
      dec_state := if b.toNat = 0x41 + s.node_address then .readCommand
        else if 0x41 ≤ b.toNat then .ignoreCommand else .scanPreamble1
      result := .kind .noop })

/-- R82, R146, R192: the command bytes received in their place; POLL is answered at once. Decision D5. Log
entry 10. -/
def Obligations.CommandBytesReceived : Prop :=
  ∀ (s : State), s.dec_state = .readCommand →
    exec .cmdInit s = .next { s with dec_state := .scanPreamble1, result := .kind .noop } ∧
    exec .cmdGet s = .next { s with dec_state := .scanPreamble1, result := .kind .noop } ∧
    exec .cmdSet s = .next { s with dec_state := .readData, rx_index := 0, result := .kind .noop } ∧
    exec .cmdPoll s = .next { s with
      dec_state := .scanPreamble1
      out_stream := s.out_stream ++ responseOf s
      flushed := (s.out_stream ++ responseOf s).length
      result := .kind .poll }

/-- R83, R84, R85: ESC and ETX received in a payload, of this node and of another. Log entry 10. -/
def Obligations.PayloadControlBytesReceived : Prop :=
  ∀ (s : State),
    (s.dec_state = .readData →
      exec .esc s = .next { s with dec_state := .readEscapedData, result := .kind .noop } ∧
      exec .etx s = .next { s with dec_state := .scanPreamble1, result := .kind .set }) ∧
    (s.dec_state = .ignoreData →
      exec .esc s = .next { s with dec_state := .ignoreEscapedData, result := .kind .noop } ∧
      exec .etx s = .next { s with dec_state := .scanPreamble1, result := .kind .noop }) ∧
    (s.dec_state = .readEscapedData → bufferOk s.rx s.rx_cap = true →
      (∃ t, exec .esc s = .next t ∧ StoresPayload 0x10#8 s t ∧ t.dec_state = .readData ∧
        t.result = .kind .noop) ∧
      (∃ t, exec .etx s = .next t ∧ StoresPayload 0x03#8 s t ∧ t.dec_state = .readData ∧
        t.result = .kind .noop))

/-- R67, R86, R185: in every state a wire byte received is one decoder step on it, but for a POLL in its
place, which is also answered. That a wire row stands for its byte received is the model's reading (log
entry 10). -/
def Obligations.WireRowsRunTheDecodeStep : Prop :=
  ∀ (s : State), ∃ t : Byte → State,
    (∀ b, exec (.decodeStep b) s = .next (t b)) ∧
    exec .pre s = .next (t 0xFF#8) ∧ exec .stx s = .next (t 0x02#8) ∧
    exec .etx s = .next (t 0x03#8) ∧ exec .esc s = .next (t 0x10#8) ∧
    exec .cmdInit s = .next (t 0x49#8) ∧ exec .cmdSet s = .next (t 0x54#8) ∧
    exec .cmdGet s = .next (t 0x52#8) ∧
    (∀ b, b ≠ 0x50#8 → exec (.addr b) s = .next (t b)) ∧
    (s.dec_state ≠ .readCommand →
      exec .cmdPoll s = .next (t 0x50#8) ∧ exec (.addr 0x50#8) s = .next (t 0x50#8))

/-- R155, R148, R82: a SET frame for this node received: RX takes the payload, and nothing else changes. Log
entry 11. -/
def Obligations.OwnSetFrameReceived : Prop :=
  ∀ (payload : List Byte) (s : State),
    s.dec_state = .scanPreamble1 → s.node_address ≤ 190 → bufferOk s.rx s.rx_cap = true →
    ∃ t, exec (.frame (BitVec.ofNat 8 (0x41 + s.node_address)) .set payload) s = .next t ∧
      (∀ j, Memory.read t.rx j =
        if j < min payload.length s.rx_cap then payload.getD j 0x00#8 else Memory.read s.rx j) ∧
      t = { s with rx := t.rx, rx_index := min payload.length s.rx_cap, result := .kind .set }

/-- R82, R157, R181, R192: a POLL frame for this node received: one response, and nothing else changes. Log
entry 11. -/
def Obligations.OwnPollFrameReceived : Prop :=
  ∀ (s : State), s.dec_state = .scanPreamble1 → s.node_address ≤ 190 →
    exec (.frame (BitVec.ofNat 8 (0x41 + s.node_address)) .poll []) s = .next { s with
      out_stream := s.out_stream ++ responseOf s
      flushed := (s.out_stream ++ responseOf s).length
      result := .kind .poll }

/-- R88, R186, R254: an INIT frame for this node leaves no trace; a GET frame for it is abandoned at its
command byte and the rest of it is received as noise. Decision D5. Log entry 11. -/
def Obligations.OwnInitAndGetFramesAbandoned : Prop :=
  ∀ (payload : List Byte) (s : State), s.dec_state = .scanPreamble1 → s.node_address ≤ 190 →
    exec (.frame (BitVec.ofNat 8 (0x41 + s.node_address)) .init []) s =
      .next { s with result := .kind .noop } ∧
    exec (.frame (BitVec.ofNat 8 (0x41 + s.node_address)) .get payload) s =
      .next (receiveBytes (Wire.escape payload ++ [0x03#8]) s)

/-- R145, R147, R150, R151: a frame for another node, whatever its command and payload, leaves no trace.
Decision D2. Log entry 11. -/
def Obligations.ForeignFrameLeavesNoTrace : Prop :=
  ∀ (a : Byte) (c : Cmd) (payload : List Byte) (s : State),
    s.dec_state = .scanPreamble1 → 0x41 ≤ a.toNat → a.toNat ≠ 0x41 + s.node_address →
      exec (.frame a c payload) s = .next { s with result := .kind .noop }

/-- R36, R87: in every state every frame is received to its end, and its reception writes nothing but the
decoder's registers, RX, and the output. The frame as one instruction is the model's (log entry 11). -/
def Obligations.FrameReceptionCompletes : Prop :=
  ∀ (a : Byte) (c : Cmd) (payload : List Byte) (s : State),
    ∃ t, exec (.frame a c payload) s = .next t ∧
      t = { s with dec_state := t.dec_state, rx_index := t.rx_index, rx := t.rx
                   out_stream := t.out_stream, flushed := t.flushed, result := t.result } ∧
      (∀ j, s.rx_cap ≤ j → Memory.read t.rx j = Memory.read s.rx j) ∧
      s.out_stream <+: t.out_stream

/-! ## The encoder -/

/-- R180, R181, R182: ENCODE appends exactly one frame, escaped, and changes no block state. -/
def Obligations.EncodeAppendsOneFrame : Prop :=
  ∀ (s : State), s.node_address ≤ 190 →
    exec .encode s = .next { s with
      out_stream := s.out_stream ++ responseOf s
      flushed := (s.out_stream ++ responseOf s).length
      result := .none } ∧
    (responseOf s).length = 6 + s.tx_cap +
      (List.range s.tx_cap).countP
        (fun i => Memory.read s.tx i = 0x03#8 ∨ Memory.read s.tx i = 0x10#8) ∧
    (BitVec.ofNat 8 (0x41 + s.node_address)).toNat = 0x41 + s.node_address

/-! ## The session -/

/-- R194: if in_stream is empty and stays empty, PROCESS returns NOOP and changes no block state. The
transport's schedule moves on (log entry 3). -/
def Obligations.ProcessOnEmptyInputChangesNothing : Prop :=
  ∀ (s : State), s.in_stream = [] → s.delivery = [] → s.proc_active = false →
    exec .process s = .next { s with
      arrivals := s.arrivals.tail, supply := s.advance.supply, result := .kind .noop }

/-- R190: one iteration of PROCESS takes one byte, of those waiting and those that arrive now; a byte that
completes nothing leaves the call in progress. Arrivals during the call: decision D16. How the transport's
coming deliveries stand in the state, the first clause, is the model's (log entry 3). -/
def Obligations.ProcessTakesOneByte : Prop :=
  (∀ (s : State),
    (∀ bytes later, s.arrivals = bytes :: later →
      s.delivery = bytes ∧ s.advance = { s with arrivals := later }) ∧
    (s.arrivals = [] → s.supply = .silent → s.delivery = [] ∧ s.advance = s) ∧
    (∀ bytes, s.arrivals = [] → s.supply = .steady bytes → s.delivery = bytes ∧ s.advance = s) ∧
    (∀ k, s.arrivals = [] → s.supply = .unknown k →
      s.delivery = Config.delivery k ∧ s.advance = { s with supply := .unknown (k + 1) })) ∧
  ∀ (s : State) (b : Byte) (left : List Byte), s.in_stream ++ s.delivery = b :: left →
    ∃ d, exec (.decodeStep b) { s.advance with proc_active := true, in_stream := left } = .next d ∧
      (d.result = .kind .noop → exec .process s = .next d) ∧
      (d.result = .kind .set → exec .process s = .next { d with proc_active := false }) ∧
      (d.result = .kind .poll → exec .process s = .next { d with
        proc_active := false
        out_stream := s.out_stream ++ responseOf s
        flushed := (s.out_stream ++ responseOf s).length }) ∧
      (d.result = .kind .noop ∨ d.result = .kind .set ∨ d.result = .kind .poll)

/-- R191, R157: the call returns on the byte that completes a frame, and the bytes after it stay unread,
those that arrive now included (log entries 1, 3). -/
def Obligations.StopRuleLeavesLaterBytes : Prop :=
  ∀ (s : State) (left : List Byte), s.proc_active = true →
    (s.dec_state = .readData → s.in_stream ++ s.delivery = 0x03#8 :: left →
      step s = .next { s.advance with
        in_stream := left, dec_state := .scanPreamble1, proc_active := false, result := .kind .set }) ∧
    (s.dec_state = .readCommand → s.in_stream ++ s.delivery = 0x50#8 :: left →
      step s = .next { s.advance with
        in_stream := left
        dec_state := .scanPreamble1
        proc_active := false
        out_stream := s.out_stream ++ responseOf s
        flushed := (s.out_stream ++ responseOf s).length
        result := .kind .poll })

/-- R195, R197: when nothing arrives during the call (log entry 3), PROCESS returns after at most one step
(log entry 1) per available byte and one more, and what it leaves is what the loop of R190 run to its end
gives. -/
def Obligations.ProcessReturnsWithinItsInput : Prop :=
  ∀ (s : State), s.proc_active = true → s.arrivals = [] → s.supply = .silent →
    ∃ (n : Nat) (t : State), n ≤ s.in_stream.length + 1 ∧
      (Host.Core.run Sys2Proof.core n s : Answer) = .next t ∧ t.proc_active = false ∧
      t = processAvailable s.in_stream s ∧
      (t.result = .kind .noop → t.in_stream = []) ∧ ∃ read, s.in_stream = read ++ t.in_stream

/-- R260: a call that does not return. If a byte that is no preamble mark arrives at every iteration while
the decoder hunts for one, the call is in progress after every number of steps, and nothing has changed;
and there is such a state that meets the invariants, with no move of the host to come. Decision D16, log
entries 1, 3. -/
def Obligations.ProcessNeedNotReturn : Prop :=
  (∀ (b : Byte) (s : State), b ≠ 0xFF#8 → s.proc_active = true → s.dec_state = .scanPreamble1 →
    s.in_stream = [] → s.arrivals = [] → s.supply = .steady [b] →
    ∀ n, (Host.Core.run Sys2Proof.core n s : Answer) =
      .next { s with result := if n = 0 then s.result else .kind .noop }) ∧
  ∃ (s : State), s.Inv ∧ s.proc_active = true ∧ s.script = [] ∧
    ∀ n, ∃ t, (Host.Core.run Sys2Proof.core n s : Answer) = .next t ∧ t.proc_active = true

/-- R197: the call is still in progress after n iterations exactly if in_stream was not empty at any of the
n availability checks and none of the n bytes returned SET or POLL, whatever the transport delivers. One
iteration is one step (log entry 1). -/
def Obligations.ProcessReturnsExactlyWhen : Prop :=
  ∀ (n : Nat) (s : State), s.proc_active = true →
    ((∀ k ≤ n, ∃ t, (Host.Core.run Sys2Proof.core k s : Answer) = .next t ∧ t.proc_active = true) ↔
      (∀ k < n, k < (s.in_stream ++ (State.deliveries (k + 1) s).flatten).length) ∧
      ∀ k ∈ (decodeRun ((s.in_stream ++ (State.deliveries n s).flatten).take n) s).1, k = .noop)

/-- R185, R184, R262: a step writes output only by answering a POLL, with exactly one frame, carrying TX as it
stood, all of it sent. -/
def Obligations.OutputOnlyAnswersPoll : Prop :=
  ∀ (s t : State), step s = .next t →
    (t.out_stream = s.out_stream ∧ t.flushed = s.flushed) ∨
    (Processing s ∧ s.dec_state = .readCommand ∧ t.result = .kind .poll ∧ t.proc_active = false ∧
      t.out_stream = s.out_stream ++ responseOf s ∧ t.flushed = t.out_stream.length)

/-! ## The machine's moves -/

/-- R190, R192: a scripted request runs as its instruction; a wire byte runs as its wire row, and as the row
the decode table selects, with the session's dispatch around it; and a table word that withFetchWord placed
is the next byte run (log entry 26). That a received byte is a wire row, read without its place in the frame,
is the model's reading (log entries 10, 13). -/
def Obligations.StepRunsDecodedInstruction : Prop :=
  (∀ (s : State) (r : Request) (i : Instr) (later : List Move), s.proc_active = false →
    s.script = .call r :: later → decodeRequest r = .ok i → r.op.isInternal = false →
    step s = exec i { s with script := later }) ∧
  (∀ (s : State) (b : Byte) (left : List Byte), s.proc_active = true →
    s.arrive.in_stream = b :: left →
    (∃ t, exec (decodeWireByte b) { s.arrive with in_stream := left } = .next t ∧
      step s = .next (endIteration t)) ∧
    (∃ t, exec (decodeCell s.node_address s.dec_state b) { s.arrive with in_stream := left } = .next t ∧
      step s = .next (endIteration (if t.result = .kind .poll then encodeResponse t else t)))) ∧
  (∀ (s : State) (nbits w : Nat) (i : Instr), decodeTableWord nbits w = some i →
    ∃ b left t, (s.withFetchWord nbits w).arrive.in_stream = b :: left ∧
      exec i { (s.withFetchWord nbits w).arrive with in_stream := left } = .next t ∧
      step (s.withFetchWord nbits w) = .next (endIteration t))

/-- R33, R250, R196, R225: while a PROCESS is in progress the host has no move, the step is the block's, and
what only the host writes stays; between calls, with no move of the host, the block keeps its state, and a
delivery only lengthens in_stream. Decision D15, log entries 2, 16, 25. -/
def Obligations.HostMovesOnlyBetweenCalls : Prop :=
  ∀ (s : State),
    (s.proc_active = true →
      ∃ t, step s = .next t ∧ t.script = s.script ∧ t.tx = s.tx ∧ t.tx_cap = s.tx_cap ∧
        t.rx_cap = s.rx_cap ∧ t.node_address = s.node_address ∧ t.cfg = s.cfg) ∧
    (s.proc_active = false → s.script = [] → step s = .next s) ∧
    (∀ bytes later, s.proc_active = false → s.script = .feed bytes :: later →
      step s = .next { s with script := later, in_stream := s.in_stream ++ bytes })

/-- R220, R100: the internal operations are never open to the host. Decision D18, log entry 15. -/
def Obligations.InternalOperationsClosedToHost : Prop :=
  ∀ (s : State) (r : Request) (later : List Move), s.proc_active = false →
    s.script = .call r :: later → (r.op = .decodeStep ∨ r.op = .encode) →
    step s = .refused (.internalOperation r.op)

/-- R36, R130, R51: who writes each element, over every step of the machine. -/
def Obligations.OnlyTheListedWritersWrite : Prop :=
  ∀ (s t : State), step s = .next t →
    (t.node_address ≠ s.node_address → Called s [.reset, .setAddress]) ∧
    (t.rx_cap ≠ s.rx_cap ∨ t.tx_cap ≠ s.tx_cap → Called s [.reset, .resize]) ∧
    (t.tx ≠ s.tx → Called s [.reset, .resize, .setBit, .setByte]) ∧
    (t.rx ≠ s.rx → Called s [.reset, .resize] ∨ Processing s) ∧
    (t.dec_state ≠ s.dec_state ∨ t.rx_index ≠ s.rx_index → Called s [.reset] ∨ Processing s) ∧
    (t.proc_active ≠ s.proc_active → Processing s) ∧
    t.cfg = s.cfg

/-- R35, R127, R51: the contents of TX are observed only in a response: two machines that differ only in TX
return the same results step for step, and differ after it only in TX and, on a POLL, in the output. -/
def Obligations.TxSeenOnlyInResponses : Prop :=
  ∀ (s s' t : State), s' = { s with tx := s'.tx } → step s = .next t →
    ∃ t', step s' = .next t' ∧ t'.result = t.result ∧
      t' = { t with tx := t'.tx, out_stream := t'.out_stream, flushed := t'.flushed } ∧
      (t.result ≠ .kind .poll → t'.out_stream = t.out_stream ∧ t'.flushed = t.flushed)

/-! ## The buffer pair and the node address -/

/-- R122, R123, R53, R55, R60: GET_BIT and GET_BYTE read RX, out of range the defaults, and write nothing. Bit
order: decision D3. -/
def Obligations.ReadsOfRx : Prop :=
  ∀ (pos : Nat) (s : State),
    exec (.getBit pos) s = .next { s with
      result := .bool (if pos / 8 ≥ s.rx_cap then false
        else (Memory.read s.rx (pos / 8)).getLsbD (pos % 8)) } ∧
    exec (.getByte pos) s = .next { s with
      result := .byte (if pos ≥ s.rx_cap then 0x00#8 else Memory.read s.rx pos) }

/-- R124, R125, R121: SET_BIT changes its bit of TX and no other, or fails and changes nothing. Bit order:
decision D3. -/
def Obligations.SetBitWritesOneBit : Prop :=
  ∀ (pos : Nat) (value : Bool) (s : State), bufferOk s.tx s.tx_cap = true →
    ((pos + 1 + 7) / 8 > s.tx_cap ↔ pos / 8 ≥ s.tx_cap) ∧
    ((pos + 1 + 7) / 8 > s.tx_cap →
      exec (.setBit pos value) s = .next { s with result := .bool false }) ∧
    (¬(pos + 1 + 7) / 8 > s.tx_cap → ∃ t, exec (.setBit pos value) s = .next t ∧
      t = { s with tx := t.tx, result := .bool true } ∧
      (∀ a, a ≠ pos / 8 → Memory.read t.tx a = Memory.read s.tx a) ∧
      ∀ k < 8, (Memory.read t.tx (pos / 8)).getLsbD k =
        if k = pos % 8 then value else (Memory.read s.tx (pos / 8)).getLsbD k)

/-- R126: SET_BYTE writes its byte of TX and no other, or fails and changes nothing. -/
def Obligations.SetByteWritesOneByte : Prop :=
  ∀ (pos : Nat) (value : Byte) (s : State), bufferOk s.tx s.tx_cap = true →
    (pos ≥ s.tx_cap → exec (.setByte pos value) s = .next { s with result := .bool false }) ∧
    (pos < s.tx_cap → ∃ t, exec (.setByte pos value) s = .next t ∧
      t = { s with tx := t.tx, result := .bool true } ∧
      ∀ a, Memory.read t.tx a = if a = pos then value else Memory.read s.tx a)

/-- R128, R129: RESIZE, its kept contents and its zero growth, or its refusal. The decoder is kept: decision
D9. -/
def Obligations.ResizeKeepsAndZeroFills : Prop :=
  ∀ (inputBits outputBits : Nat) (s : State),
    (capFits s.cfg.tx_cap_max ((inputBits + 7) / 8) = true →
      capFits s.cfg.rx_cap_max ((outputBits + 7) / 8) = true →
      ∃ t, exec (.resize inputBits outputBits) s = .next t ∧
        (∀ a, Memory.read t.rx a =
          if a < s.rx_cap ∧ a < (outputBits + 7) / 8 then Memory.read s.rx a else 0x00#8) ∧
        (∀ a, Memory.read t.tx a =
          if a < s.tx_cap ∧ a < (inputBits + 7) / 8 then Memory.read s.tx a else 0x00#8) ∧
        t = { s with rx := t.rx, tx := t.tx, rx_cap := (outputBits + 7) / 8
                     tx_cap := (inputBits + 7) / 8, result := .none }) ∧
    (capFits s.cfg.tx_cap_max ((inputBits + 7) / 8) = false ∨
      capFits s.cfg.rx_cap_max ((outputBits + 7) / 8) = false →
      exec (.resize inputBits outputBits) s = .refused .capacityTooLarge)

/-- R129: what a shrink drops comes back as zero, what fits all three capacities is kept, and a resize to
the same sizes changes no byte. -/
def Obligations.ShrinkThenGrowGivesZero : Prop :=
  (∀ (i o i' o' : Nat) (s t u : State),
    exec (.resize i o) s = .next t → exec (.resize i' o') t = .next u →
    (∀ a, (o + 7) / 8 ≤ a → Memory.read u.rx a = 0x00#8) ∧
    (∀ a, (i + 7) / 8 ≤ a → Memory.read u.tx a = 0x00#8) ∧
    (∀ a, a < s.rx_cap → a < (o + 7) / 8 → a < (o' + 7) / 8 →
      Memory.read u.rx a = Memory.read s.rx a) ∧
    (∀ a, a < s.tx_cap → a < (i + 7) / 8 → a < (i' + 7) / 8 →
      Memory.read u.tx a = Memory.read s.tx a)) ∧
  ∀ (i o : Nat) (s : State), s.Inv → (i + 7) / 8 = s.tx_cap → (o + 7) / 8 = s.rx_cap →
    exec (.resize i o) s = .next { s with result := .none }

/-- R257: a resize inside a SET payload keeps the cursor; the next payload byte lands there if the new
capacity has room, and is dropped if not. Decision D9. -/
def Obligations.ResizeInsidePayload : Prop :=
  ∀ (i o : Nat) (b : Byte) (s t : State), s.Inv →
    s.dec_state = .readData → b ≠ 0x10#8 → b ≠ 0x03#8 → exec (.resize i o) s = .next t →
    ∃ u, exec (.decodeStep b) t = .next u ∧ u.dec_state = .readData ∧
      (s.rx_index < (o + 7) / 8 →
        Memory.read u.rx s.rx_index = b ∧ u.rx_index = s.rx_index + 1) ∧
      ((o + 7) / 8 ≤ s.rx_index → u.rx = t.rx ∧ u.rx_index = s.rx_index)

/-- R131, R219: SET_ADDRESS. Decision D4. -/
def Obligations.SetAddressWritesTheAddress : Prop :=
  ∀ (addr : Nat) (s : State),
    (addr ≤ 190 → exec (.setAddress addr) s =
      .next { s with node_address := addr, result := .none }) ∧
    (190 < addr → exec (.setAddress addr) s = .refused .addressOutOfRange)

/-- R258: an address change does not touch a frame already past its address byte. Decision D29. -/
def Obligations.AddressChangeInsideFrame : Prop :=
  ∀ (addr : Nat) (b : Byte) (s : State), s.dec_state ≠ .readAddress →
    ∃ t, exec (.decodeStep b) s = .next t ∧
      exec (.decodeStep b) { s with node_address := addr } = .next { t with node_address := addr }

/-- R219: the complete list of refusals, with their conditions. Decisions D4, D10. -/
def Obligations.RefusalsAreExactlyTheListed : Prop :=
  ∀ (i : Instr) (s : State) (r : Refusal), exec i s = .refused r ↔
    (r = .addressOutOfRange ∧
      ((∃ a x y, i = .reset a x y ∧ 190 < a) ∨ ∃ a, i = .setAddress a ∧ 190 < a)) ∨
    (r = .capacityTooLarge ∧ ∃ x y,
      ((∃ a, i = .reset a x y ∧ a ≤ 190) ∨ i = .resize x y) ∧
      ¬(capFits s.cfg.tx_cap_max ((x + 7) / 8) = true ∧ capFits s.cfg.rx_cap_max ((y + 7) / 8) = true))

/-! ## Creation and invariants -/

/-- R240: RESET writes every element of the block and touches no stream, or is refused. Decisions D4, D7, D8,
D10. -/
def Obligations.ResetWritesTheBlock : Prop :=
  ∀ (addr inputBits outputBits : Nat) (s : State),
    (addr ≤ 190 → capFits s.cfg.tx_cap_max ((inputBits + 7) / 8) = true →
      capFits s.cfg.rx_cap_max ((outputBits + 7) / 8) = true →
      ∃ t, exec (.reset addr inputBits outputBits) s = .next t ∧
        (∀ a, Memory.read t.rx a = 0x00#8) ∧ (∀ a, Memory.read t.tx a = 0x00#8) ∧
        t = { s with node_address := addr, tx_cap := (inputBits + 7) / 8
                     rx_cap := (outputBits + 7) / 8, tx := t.tx, rx := t.rx
                     dec_state := .scanPreamble1, rx_index := 0, proc_active := false
                     result := .none } ∧
        t.ignoring = false) ∧
    (190 < addr → exec (.reset addr inputBits outputBits) s = .refused .addressOutOfRange) ∧
    (addr ≤ 190 → capFits s.cfg.tx_cap_max ((inputBits + 7) / 8) = false ∨
      capFits s.cfg.rx_cap_max ((outputBits + 7) / 8) = false →
      exec (.reset addr inputBits outputBits) s = .refused .capacityTooLarge)

/-- R241: what creation leaves in every element, for all creation parameters. Decisions D7, D8. -/
def Obligations.CreationLeavesTheResetValues : Prop :=
  ∀ (node inputBits outputBits : Nat) (cfg : Platform),
    let s := State.create node inputBits outputBits cfg
    s.node_address = node ∧ s.rx_cap = (outputBits + 7) / 8 ∧ s.tx_cap = (inputBits + 7) / 8 ∧
    (∀ a, Memory.read s.rx a = 0x00#8) ∧ (∀ a, Memory.read s.tx a = 0x00#8) ∧
    s.dec_state = .scanPreamble1 ∧ s.rx_index = 0 ∧ s.ignoring = false ∧ s.proc_active = false

/-- R37: the invariants hold at creation, and so at reset. -/
def Obligations.CreationMeetsTheInvariants : Prop :=
  (∀ (node inputBits outputBits : Nat) (cfg : Platform), node ≤ 190 →
    capFits cfg.tx_cap_max ((inputBits + 7) / 8) = true →
    capFits cfg.rx_cap_max ((outputBits + 7) / 8) = true →
    (State.create node inputBits outputBits cfg).Inv) ∧ State.reset.Inv

/-- R37: every step keeps the invariants, from every state that meets them. -/
def Obligations.EveryStepKeepsTheInvariants : Prop :=
  ∀ (s t : State), s.Inv → step s = .next t → t.Inv

/-- R67, R62: a step reads at most one byte, the oldest, and what was waiting keeps its order. -/
def Obligations.InputIsReadInOrder : Prop :=
  ∀ (s t : State), step s = .next t →
    ∃ bytes, t.in_stream = s.in_stream ++ bytes ∨
      ((∃ b, b :: t.in_stream = s.in_stream ++ bytes) ∧ Processing s)
end

