-- ==== Sys2Proof/Laws/Step.lean ====
section
/-! SUPPORT. What a step, a request and an iteration of PROCESS can do, each said once. -/

namespace Sys2Proof.Machine

/-- Only the command byte 0x50 in its place completes a POLL (R146). -/
theorem decodeByte_poll_iff (b : Byte) (s : State) :
    (decodeByte b s).1 = .poll ↔ s.dec_state = .readCommand ∧ b = 0x50#8 := by
  cases hd : s.dec_state <;>
    simp only [decodeByte, hd, inScanPreamble1, inScanPreamble2, inScanPreamble3, inReadAddress,
      inReadCommand, inIgnoreCommand, inReadData, inReadEscapedData, inIgnoreData, inIgnoreEscapedData]
  case readCommand =>
    split_ifs with h1 h2
    · subst h1; decide
    · simp [h2]
    · simpa using h2
  all_goals (try split_ifs) <;> simp

theorem endIteration_noop (s : State) (h : s.result = .kind .noop) : endIteration s = s := by
  simp [endIteration, h]

theorem endIteration_other (s : State) (h : s.result ≠ .kind .noop) :
    endIteration s = { s with proc_active := false } := by
  simp [endIteration, h]; rfl

/-- A request the host may issue is one of the eight host operations (R100). -/
theorem decodeRequest_cases (r : Request) (i : Instr) (h : decodeRequest r = .ok i)
    (hi : r.op.isInternal = false) :
    (∃ a x y, i = .reset a x y ∧ r.op = .reset) ∨ (∃ a, i = .setAddress a ∧ r.op = .setAddress) ∨
    (∃ x y, i = .resize x y ∧ r.op = .resize) ∨ (∃ p, i = .getBit p ∧ r.op = .getBit) ∨
    (∃ p, i = .getByte p ∧ r.op = .getByte) ∨ (∃ p v, i = .setBit p v ∧ r.op = .setBit) ∨
    (∃ p v, i = .setByte p v ∧ r.op = .setByte) ∨ (i = .process ∧ r.op = .process) := by
  obtain ⟨op, args⟩ := r
  unfold decodeRequest at h
  split at h <;> cases h <;> simp_all [OpName.isInternal]

/-- Everything a step that answers a next state can do. -/
theorem step_cases (s t : State) (h : step s = .next t) :
    (s.proc_active = true ∧ t = processIteration s) ∨
    (s.proc_active = false ∧ s.script = [] ∧ t = s) ∨
    (∃ bytes later, s.proc_active = false ∧ s.script = .feed bytes :: later ∧
      t = { s with script := later, in_stream := s.in_stream ++ bytes }) ∨
    (∃ r later i, s.proc_active = false ∧ s.script = .call r :: later ∧ decodeRequest r = .ok i ∧
      r.op.isInternal = false ∧ exec i { s with script := later } = .next t) := by
  unfold step at h
  split_ifs at h with ha
  · exact .inl ⟨ha, (Host.Outcome.next.inj h).symm⟩
  · simp only [Bool.not_eq_true] at ha
    unfold takeScript at h
    split at h
    · next hs => exact .inr (.inl ⟨ha, hs, (Host.Outcome.next.inj h).symm⟩)
    · next m later hs =>
      cases m with
      | feed bytes => exact .inr (.inr (.inl ⟨bytes, later, ha, hs, (Host.Outcome.next.inj h).symm⟩))
      | call r =>
        simp only [takeMove, issue] at h
        split_ifs at h with hint
        split at h
        · cases h
        · next i hi =>
          exact .inr (.inr (.inr ⟨r, later, i, ha, hs, hi, by simpa using hint, h⟩))

/-- One step of a run. -/
theorem run_succ (n : Nat) (s t : State) (h : step s = .next t) :
    Host.Core.run Sys2Proof.core (n + 1) s = Host.Core.run Sys2Proof.core n t := by
  have h' : Sys2Proof.core.step s = .next t := h
  simp only [Host.Core.run, h']

/-- A step of a PROCESS in progress with a byte to read: it is handled, and the call ends or goes on. -/
theorem step_takes_byte (s : State) (b : Byte) (left : List Byte) (ha : s.proc_active = true)
    (hin : s.in_stream ++ s.delivery = b :: left) :
    step s = .next (endIteration (receiveByte b { s.advance with in_stream := left })) := by
  simp only [step, ha, if_true, processIteration, State.arrive, State.deliver, State.advance_in_stream, hin]
  rfl

/-- Everything an iteration of PROCESS can do. -/
theorem processIteration_shape (s : State) :
    ∃ (left : List Byte) (d : DecState) (n : Nat) (m : Memory) (o : List Byte) (f : Nat) (v : Bool)
      (k : CommandKind),
      processIteration s = { s with
        dec_state := d, rx_index := n, rx := m, out_stream := o, flushed := f, result := .kind k
        proc_active := v, in_stream := left, arrivals := s.arrivals.tail, supply := s.advance.supply } ∧
      (left = s.in_stream ++ s.delivery ∨ ∃ b, b :: left = s.in_stream ++ s.delivery) ∧
      (m = s.rx ∨ ∃ b, m = (s.storePayload b).rx) ∧
      ((o = s.out_stream ∧ f = s.flushed ∧ k ≠ .poll) ∨
        (s.dec_state = .readCommand ∧ k = .poll ∧ v = false ∧ o = s.out_stream ++ responseOf s ∧
          f = o.length)) := by
  have ha := arrive_eq s
  rcases processIteration_cases s with ⟨hin, h⟩ | ⟨b, left, hin, h⟩
  · refine ⟨[], s.dec_state, s.rx_index, s.rx, s.out_stream, s.flushed, false, .noop, ?_, .inl ?_,
      .inl rfl, .inl ⟨rfl, rfl, by decide⟩⟩
    · rw [h, ha]
      have : s.in_stream ++ s.delivery = [] := by rw [ha] at hin; exact hin
      simp [State.setActive, State.ret, this]
    · rw [ha] at hin; exact hin.symm
  · obtain ⟨d, n, m, o, f, he, hm, ho⟩ := receiveByte_shape b (s.arrive.setInput left)
    have hstore : ((s.arrive.setInput left).storePayload b).rx = (s.storePayload b).rx := by
      rw [ha]
      by_cases hi : s.rx_index < s.rx_cap <;>
        simp [State.storePayload, State.setInput, State.rxWrite, State.setIndex, hi]
    have hE : endIteration (receiveByte b (s.arrive.setInput left)) =
        { (receiveByte b (s.arrive.setInput left)) with
          proc_active := if (decodeByte b (s.arrive.setInput left)).1 = .noop then s.proc_active
            else false } := by
      by_cases hk : (decodeByte b (s.arrive.setInput left)).1 = .noop
      · rw [endIteration_noop _ (by simp [hk]), if_pos hk]
        rw [he]; simp only [State.setInput, ha]
      · rw [endIteration_other _ (by simpa using hk), if_neg hk]
    refine ⟨left, d, n, m, o, f,
      if (decodeByte b (s.arrive.setInput left)).1 = .noop then s.proc_active else false,
      (decodeByte b (s.arrive.setInput left)).1,
      ?_, .inr ⟨b, ?_⟩, ?_, ?_⟩
    rotate_left 1
    · rw [ha] at hin; exact hin.symm
    · rcases hm with hm | hm
      · left; rw [hm, ha]; rfl
      · exact .inr ⟨b, hm.trans hstore⟩
    rotate_left 1
    · rw [h, hE, he]
      simp only [State.setInput, ha]
    · rcases ho with ⟨h0, h1, h2⟩ | ⟨h1, h2, h3⟩
      · left; rw [h1, h2, ha]; exact ⟨rfl, rfl, by rw [ha] at h0; exact h0⟩
      · right
        refine ⟨?_, h1, by rw [h1]; simp, ?_, h2⟩
        · have h' := ((decodeByte_poll_iff _ _).1 h1).1; rw [ha] at h'; exact h'
        · rw [h3, ha]; rfl

end Sys2Proof.Machine
end

