-- ==== Sys2Proof/Tests/Slice0.lean ====
section
/-! SUPPORT. The model's own tests. Expected results come from 95_test_vectors.md and from the rules named,
never from the model. Then a witness for every statement that has hypotheses. -/

namespace Sys2Proof.Tests

open Sys2Proof.Machine

/-! ## Helpers -/

/-- `RESET(node, input_bits, output_bits)` on the platform of Config. -/
def fresh (node inputBits outputBits : Nat) : State := State.create node inputBits outputBits Config.platform

/-- The start state of 95_test_vectors.md V4: node 2, rx_cap 2, RX = [11 22], rx_index 1. -/
def v4 (d : DecState) : State :=
  { fresh 2 8 16 with rx := [(0, 0x11#8), (1, 0x22#8)], rx_index := 1, dec_state := d }

/-- V4 with RX full. -/
def v4full (d : DecState) : State := { v4 d with rx_index := 2 }

/-- What a V4 vector shows. -/
structure Shown where
  next_state : DecState
  result : Result
  rx : List Byte
  rx_index : Nat
deriving DecidableEq, Repr

/-- What a V4 vector shows of an answer. -/
def shown (a : Answer) : Option Shown :=
  (next? a).map fun t => ⟨t.dec_state, t.result, Memory.bytes t.rx t.rx_cap, t.rx_index⟩

/-- The result of an instruction. -/
def resultOf (a : Answer) : Option Result := (next? a).map fun t => t.result

/-- The result of an instruction and TX after it. -/
def txAfter (a : Answer) : Option (Result × List Byte) :=
  (next? a).map fun t => (t.result, Memory.bytes t.tx t.tx_cap)

/-- Both buffers after an instruction. -/
def buffersAfter (a : Answer) : Option (List Byte × List Byte) :=
  (next? a).map fun t => (Memory.bytes t.rx t.rx_cap, Memory.bytes t.tx t.tx_cap)

/-- The result of an instruction and the output after it. -/
def outAfter (a : Answer) : Option (Result × List Byte) :=
  (next? a).map fun t => (t.result, t.out_stream)

/-! ## WellFormed: an ill-formed term for each check -/

theorem test_wf_refuses_addr_below_range : (Instr.addr 0x40#8).wf = false := by decide
theorem test_wf_refuses_frame_address : (Instr.frame 0x40#8 .set []).wf = false := by decide
theorem test_wf_refuses_poll_payload : (Instr.frame 0x41#8 .poll [0x00#8]).wf = false := by decide
theorem test_wf_refuses_init_payload : (Instr.frame 0x41#8 .init [0x00#8]).wf = false := by decide
theorem test_wf_refuses_sp1_any : (Instr.decSp1Any 0xFF#8).wf = false := by decide
theorem test_wf_refuses_sp2_any : (Instr.decSp2Any 0xFF#8).wf = false := by decide
theorem test_wf_refuses_sp3_any : (Instr.decSp3Any 0x02#8).wf = false := by decide
theorem test_wf_refuses_ra_match : (Instr.decRaMatch 0x40#8).wf = false := by decide
theorem test_wf_refuses_ra_foreign : (Instr.decRaForeign 0x40#8).wf = false := by decide
theorem test_wf_refuses_ra_any : (Instr.decRaAny 0x41#8).wf = false := by decide
theorem test_wf_refuses_rc_any :
    (Instr.decRcAny 0x54#8).wf = false ∧ (Instr.decRcAny 0x50#8).wf = false := by decide
theorem test_wf_refuses_rd_any :
    (Instr.decRdAny 0x10#8).wf = false ∧ (Instr.decRdAny 0x03#8).wf = false := by decide
theorem test_wf_refuses_id_any :
    (Instr.decIdAny 0x10#8).wf = false ∧ (Instr.decIdAny 0x03#8).wf = false := by decide
theorem test_wf_refuses_reset_address : (Instr.reset 191 8 8).wf = false := by decide
theorem test_wf_refuses_set_address : (Instr.setAddress 191).wf = false := by decide
theorem test_wf_accepts_the_edges :
    (Instr.addr 0x41#8).wf = true ∧ (Instr.addr 0xFF#8).wf = true ∧
    (Instr.frame 0xFF#8 .get [0x03#8]).wf = true ∧ (Instr.setAddress 190).wf = true ∧
    (Instr.reset 190 0 0).wf = true := by decide

/-! ## Decoding: every constructor, from words written out from the spec -/

/-- R80, R82, R83, R81: each wire byte at its place in the frame. -/
theorem test_decode_wire_bytes :
    decode (.wireByte .scanPreamble1 0xFF#8) = .ok .pre ∧
    decode (.wireByte .scanPreamble2 0xFF#8) = .ok .pre ∧
    decode (.wireByte .scanPreamble3 0x02#8) = .ok .stx ∧
    decode (.wireByte .readAddress 0x43#8) = .ok (.addr 0x43#8) ∧
    decode (.wireByte .readCommand 0x49#8) = .ok .cmdInit ∧
    decode (.wireByte .readCommand 0x54#8) = .ok .cmdSet ∧
    decode (.wireByte .readCommand 0x52#8) = .ok .cmdGet ∧
    decode (.wireByte .ignoreCommand 0x50#8) = .ok .cmdPoll ∧
    decode (.wireByte .readData 0x10#8) = .ok .esc ∧
    decode (.wireByte .ignoreData 0x03#8) = .ok .etx := by
  refine ⟨?_, ?_, ?_, ?_, ?_, ?_, ?_, ?_, ?_, ?_⟩ <;> rfl

/-- R86: the same byte has another role in another state. -/
theorem test_decode_depends_on_place :
    decode (.wireByte .readData 0xFF#8) = .ok (.decodeStep 0xFF#8) ∧
    decode (.wireByte .readEscapedData 0x03#8) = .ok (.decodeStep 0x03#8) ∧
    decode (.wireByte .readAddress 0x54#8) = .ok (.addr 0x54#8) := by
  refine ⟨?_, ?_, ?_⟩ <;> rfl

/-- T3's response frame, and the frame of V5.1 with both escapes. -/
theorem test_decode_frames :
    decode (.wireFrame [0xFF#8, 0xFF#8, 0x02#8, 0x43#8, 0x52#8, 0x10#8, 0x03#8, 0x03#8]) =
      .ok (.frame 0x43#8 .get [0x03#8]) ∧
    decode (.wireFrame [0xFF#8, 0xFF#8, 0x02#8, 0x41#8, 0x54#8, 0x10#8, 0x03#8, 0x10#8, 0x10#8, 0x41#8,
      0x03#8]) = .ok (.frame 0x41#8 .set [0x03#8, 0x10#8, 0x41#8]) ∧
    decode (.wireFrame [0xFF#8, 0xFF#8, 0x02#8, 0x43#8, 0x50#8, 0x03#8]) =
      .ok (.frame 0x43#8 .poll []) := by
  refine ⟨?_, ?_, ?_⟩ <;> rfl

/-- R152: the rows of the scanning and address states; node 2 matches byte 43. -/
theorem test_decode_cells_before_command :
    decode (.cell 2 .scanPreamble1 0xFF#8) = .ok .decSp1Ff ∧
    decode (.cell 2 .scanPreamble1 0x02#8) = .ok (.decSp1Any 0x02#8) ∧
    decode (.cell 2 .scanPreamble2 0xFF#8) = .ok .decSp2Ff ∧
    decode (.cell 2 .scanPreamble2 0x02#8) = .ok (.decSp2Any 0x02#8) ∧
    decode (.cell 2 .scanPreamble3 0x02#8) = .ok .decSp3Stx ∧
    decode (.cell 2 .scanPreamble3 0xFF#8) = .ok (.decSp3Any 0xFF#8) ∧
    decode (.cell 2 .readAddress 0x43#8) = .ok (.decRaMatch 0x43#8) ∧
    decode (.cell 2 .readAddress 0x41#8) = .ok (.decRaForeign 0x41#8) ∧
    decode (.cell 2 .readAddress 0x40#8) = .ok (.decRaAny 0x40#8) := by
  refine ⟨?_, ?_, ?_, ?_, ?_, ?_, ?_, ?_, ?_⟩ <;> rfl

/-- R152: the rows of the command and payload states. -/
theorem test_decode_cells_from_command :
    decode (.cell 2 .readCommand 0x54#8) = .ok .decRcSet ∧
    decode (.cell 2 .readCommand 0x50#8) = .ok .decRcPoll ∧
    decode (.cell 2 .readCommand 0x49#8) = .ok (.decRcAny 0x49#8) ∧
    decode (.cell 2 .ignoreCommand 0x03#8) = .ok (.decIcAny 0x03#8) ∧
    decode (.cell 2 .readData 0x10#8) = .ok .decRdEsc ∧
    decode (.cell 2 .readData 0x03#8) = .ok .decRdEtx ∧
    decode (.cell 2 .readData 0xFF#8) = .ok (.decRdAny 0xFF#8) ∧
    decode (.cell 2 .readEscapedData 0x03#8) = .ok (.decReAny 0x03#8) ∧
    decode (.cell 2 .ignoreData 0x10#8) = .ok .decIdEsc ∧
    decode (.cell 2 .ignoreData 0x03#8) = .ok .decIdEtx ∧
    decode (.cell 2 .ignoreData 0xAA#8) = .ok (.decIdAny 0xAA#8) ∧
    decode (.cell 2 .ignoreEscapedData 0x03#8) = .ok (.decIeAny 0x03#8) := by
  refine ⟨?_, ?_, ?_, ?_, ?_, ?_, ?_, ?_, ?_, ?_, ?_, ?_⟩ <;> rfl

/-- R100: each operation by its name and operands. -/
theorem test_decode_requests :
    decode (.request ⟨.reset, [.nat 2, .nat 8, .nat 16]⟩) = .ok (.reset 2 8 16) ∧
    decode (.request ⟨.setAddress, [.nat 5]⟩) = .ok (.setAddress 5) ∧
    decode (.request ⟨.resize, [.nat 8, .nat 16]⟩) = .ok (.resize 8 16) ∧
    decode (.request ⟨.getBit, [.nat 8]⟩) = .ok (.getBit 8) ∧
    decode (.request ⟨.getByte, [.nat 1]⟩) = .ok (.getByte 1) ∧
    decode (.request ⟨.setBit, [.nat 15, .bool true]⟩) = .ok (.setBit 15 true) ∧
    decode (.request ⟨.setByte, [.nat 0, .byte 0x03#8]⟩) = .ok (.setByte 0 0x03#8) ∧
    decode (.request ⟨.process, []⟩) = .ok .process ∧
    decode (.request ⟨.decodeStep, [.byte 0xFF#8]⟩) = .ok (.decodeStep 0xFF#8) ∧
    decode (.request ⟨.encode, []⟩) = .ok .encode := by
  refine ⟨?_, ?_, ?_, ?_, ?_, ?_, ?_, ?_, ?_, ?_⟩ <;> rfl

/-- What is no frame and no request is rejected by name. -/
theorem test_decode_rejects_by_name :
    decode (.wireFrame [0xFF#8, 0xFF#8, 0x02#8, 0x43#8]) = .error .shortFrame ∧
    decode (.wireFrame [0xFF#8, 0x02#8, 0x43#8, 0x54#8, 0x03#8]) = .error .badPreamble ∧
    decode (.wireFrame [0xFF#8, 0xFF#8, 0xFF#8, 0x02#8, 0x43#8, 0x54#8, 0x03#8]) = .error .badStx ∧
    decode (.wireFrame [0xFF#8, 0xFF#8, 0x02#8, 0x40#8, 0x54#8, 0x03#8]) = .error .malformedAddress ∧
    decode (.wireFrame [0xFF#8, 0xFF#8, 0x02#8, 0x43#8, 0x55#8, 0x03#8]) = .error .notACommand ∧
    decode (.wireFrame [0xFF#8, 0xFF#8, 0x02#8, 0x43#8, 0x50#8, 0x00#8, 0x03#8]) =
      .error .payloadNotAllowed ∧
    decode (.wireFrame [0xFF#8, 0xFF#8, 0x02#8, 0x43#8, 0x54#8, 0x10#8, 0x03#8]) = .error .unterminated ∧
    decode (.wireFrame [0xFF#8, 0xFF#8, 0x02#8, 0x43#8, 0x54#8, 0x03#8, 0x03#8]) =
      .error .trailingBytes ∧
    decode (.request ⟨.getBit, [.bool true]⟩) = .error (.wrongOperands .getBit) := by
  refine ⟨?_, ?_, ?_, ?_, ?_, ?_, ?_, ?_, ?_⟩ <;> rfl

/-- The encoder writes T1's SET frame and T3's escaped response. -/
theorem test_encode_frames :
    encode (.frame 0x43#8 .set [0xAA#8]) =
      .wireFrame [0xFF#8, 0xFF#8, 0x02#8, 0x43#8, 0x54#8, 0xAA#8, 0x03#8] ∧
    encode (.frame 0x43#8 .get [0x03#8]) =
      .wireFrame [0xFF#8, 0xFF#8, 0x02#8, 0x43#8, 0x52#8, 0x10#8, 0x03#8, 0x03#8] := by
  refine ⟨?_, ?_⟩ <;> rfl

/-- A table word is its bytes, the first in bits 7..0. -/
theorem test_table_word_bytes : wordBytes 16 0x02FF = [0xFF#8, 0x02#8] ∧ wordBytes 8 0x43 = [0x43#8] := by
  decide

/-! ## One step each: the V4 vectors, by row of the decode table -/

theorem test_scan1_rows :
    shown (exec .decSp1Ff (v4 .scanPreamble1)) =
      some ⟨.scanPreamble2, .kind .noop, [0x11#8, 0x22#8], 1⟩ ∧
    shown (exec (.decSp1Any 0x02#8) (v4 .scanPreamble1)) =
      some ⟨.scanPreamble1, .kind .noop, [0x11#8, 0x22#8], 1⟩ := by decide

theorem test_scan2_rows :
    shown (exec .decSp2Ff (v4 .scanPreamble2)) =
      some ⟨.scanPreamble3, .kind .noop, [0x11#8, 0x22#8], 1⟩ ∧
    shown (exec (.decSp2Any 0x02#8) (v4 .scanPreamble2)) =
      some ⟨.scanPreamble1, .kind .noop, [0x11#8, 0x22#8], 1⟩ := by decide

theorem test_scan3_rows :
    shown (exec .decSp3Stx (v4 .scanPreamble3)) =
      some ⟨.readAddress, .kind .noop, [0x11#8, 0x22#8], 1⟩ ∧
    shown (exec (.decSp3Any 0xFF#8) (v4 .scanPreamble3)) =
      some ⟨.scanPreamble1, .kind .noop, [0x11#8, 0x22#8], 1⟩ := by decide

theorem test_address_rows :
    shown (exec (.decRaMatch 0x43#8) (v4 .readAddress)) =
      some ⟨.readCommand, .kind .noop, [0x11#8, 0x22#8], 1⟩ ∧
    shown (exec (.decRaForeign 0xFF#8) (v4 .readAddress)) =
      some ⟨.ignoreCommand, .kind .noop, [0x11#8, 0x22#8], 1⟩ ∧
    shown (exec (.decRaAny 0x40#8) (v4 .readAddress)) =
      some ⟨.scanPreamble1, .kind .noop, [0x11#8, 0x22#8], 1⟩ := by decide

theorem test_command_rows :
    shown (exec .decRcSet (v4 .readCommand)) = some ⟨.readData, .kind .noop, [0x11#8, 0x22#8], 0⟩ ∧
    shown (exec .decRcPoll (v4 .readCommand)) =
      some ⟨.scanPreamble1, .kind .poll, [0x11#8, 0x22#8], 1⟩ ∧
    shown (exec (.decRcAny 0x52#8) (v4 .readCommand)) =
      some ⟨.scanPreamble1, .kind .noop, [0x11#8, 0x22#8], 1⟩ := by decide

theorem test_read_data_rows :
    shown (exec .decRdEsc (v4 .readData)) =
      some ⟨.readEscapedData, .kind .noop, [0x11#8, 0x22#8], 1⟩ ∧
    shown (exec .decRdEtx (v4 .readData)) =
      some ⟨.scanPreamble1, .kind .set, [0x11#8, 0x22#8], 1⟩ ∧
    shown (exec (.decRdAny 0xFF#8) (v4 .readData)) =
      some ⟨.readData, .kind .noop, [0x11#8, 0xFF#8], 2⟩ ∧
    shown (exec (.decRdAny 0x33#8) (v4full .readData)) =
      some ⟨.readData, .kind .noop, [0x11#8, 0x22#8], 2⟩ := by decide

theorem test_escaped_data_row :
    shown (exec (.decReAny 0x03#8) (v4 .readEscapedData)) =
      some ⟨.readData, .kind .noop, [0x11#8, 0x03#8], 2⟩ ∧
    shown (exec (.decReAny 0x03#8) (v4full .readEscapedData)) =
      some ⟨.readData, .kind .noop, [0x11#8, 0x22#8], 2⟩ := by decide

theorem test_foreign_rows :
    shown (exec (.decIcAny 0x03#8) (v4 .ignoreCommand)) =
      some ⟨.ignoreData, .kind .noop, [0x11#8, 0x22#8], 1⟩ ∧
    shown (exec .decIdEsc (v4 .ignoreData)) =
      some ⟨.ignoreEscapedData, .kind .noop, [0x11#8, 0x22#8], 1⟩ ∧
    shown (exec .decIdEtx (v4 .ignoreData)) =
      some ⟨.scanPreamble1, .kind .noop, [0x11#8, 0x22#8], 1⟩ ∧
    shown (exec (.decIdAny 0xAA#8) (v4 .ignoreData)) =
      some ⟨.ignoreData, .kind .noop, [0x11#8, 0x22#8], 1⟩ ∧
    shown (exec (.decIeAny 0x03#8) (v4 .ignoreEscapedData)) =
      some ⟨.ignoreData, .kind .noop, [0x11#8, 0x22#8], 1⟩ := by decide

/-- V4.16, V4.23, V4.25, V4.33. -/
theorem test_decode_step :
    shown (exec (.decodeStep 0x00#8) (v4 .readAddress)) =
      some ⟨.scanPreamble1, .kind .noop, [0x11#8, 0x22#8], 1⟩ ∧
    shown (exec (.decodeStep 0x03#8) (v4 .readCommand)) =
      some ⟨.scanPreamble1, .kind .noop, [0x11#8, 0x22#8], 1⟩ ∧
    shown (exec (.decodeStep 0x10#8) (v4 .ignoreCommand)) =
      some ⟨.ignoreData, .kind .noop, [0x11#8, 0x22#8], 1⟩ ∧
    shown (exec (.decodeStep 0x41#8) (v4 .readEscapedData)) =
      some ⟨.readData, .kind .noop, [0x11#8, 0x41#8], 2⟩ := by decide

/-- V4.41, V4.42: the edges of the address range. -/
theorem test_address_edges :
    shown (exec (.decodeStep 0xFF#8) { fresh 190 8 8 with dec_state := .readAddress }) =
      some ⟨.readCommand, .kind .noop, [0x00#8], 0⟩ ∧
    shown (exec (.decodeStep 0x41#8) { fresh 0 8 8 with dec_state := .readAddress }) =
      some ⟨.readCommand, .kind .noop, [0x00#8], 0⟩ := by decide

/-! ## One step each: wire bytes and frames -/

theorem test_wire_header_bytes :
    shown (exec .pre (v4 .scanPreamble1)) = some ⟨.scanPreamble2, .kind .noop, [0x11#8, 0x22#8], 1⟩ ∧
    shown (exec .stx (v4 .scanPreamble3)) = some ⟨.readAddress, .kind .noop, [0x11#8, 0x22#8], 1⟩ ∧
    shown (exec (.addr 0x43#8) (v4 .readAddress)) =
      some ⟨.readCommand, .kind .noop, [0x11#8, 0x22#8], 1⟩ ∧
    shown (exec .cmdSet (v4 .readCommand)) = some ⟨.readData, .kind .noop, [0x11#8, 0x22#8], 0⟩ ∧
    shown (exec .cmdInit (v4 .readCommand)) =
      some ⟨.scanPreamble1, .kind .noop, [0x11#8, 0x22#8], 1⟩ ∧
    shown (exec .cmdGet (v4 .readCommand)) =
      some ⟨.scanPreamble1, .kind .noop, [0x11#8, 0x22#8], 1⟩ := by decide

/-- R86: a mark is data in a payload, a terminator is data after an ESC. -/
theorem test_wire_bytes_in_payload :
    shown (exec .pre (v4 .readData)) = some ⟨.readData, .kind .noop, [0x11#8, 0xFF#8], 2⟩ ∧
    shown (exec .esc (v4 .readData)) = some ⟨.readEscapedData, .kind .noop, [0x11#8, 0x22#8], 1⟩ ∧
    shown (exec .etx (v4 .readData)) = some ⟨.scanPreamble1, .kind .set, [0x11#8, 0x22#8], 1⟩ ∧
    shown (exec .etx (v4 .readEscapedData)) =
      some ⟨.readData, .kind .noop, [0x11#8, 0x03#8], 2⟩ := by decide

/-- R192, V6.1: the command byte of a POLL is answered at once. -/
theorem test_wire_poll :
    outAfter (exec .cmdPoll (v4 .readCommand)) =
      some (.kind .poll, [0xFF#8, 0xFF#8, 0x02#8, 0x43#8, 0x52#8, 0x00#8, 0x03#8]) := by decide

/-- T1 and V5.1: SET frames. -/
theorem test_frame_set :
    shown (exec (.frame 0x43#8 .set [0xAA#8]) (fresh 2 8 8)) =
      some ⟨.scanPreamble1, .kind .set, [0xAA#8], 1⟩ ∧
    shown (exec (.frame 0x41#8 .set [0x03#8, 0x10#8, 0x41#8]) (fresh 0 16 24)) =
      some ⟨.scanPreamble1, .kind .set, [0x03#8, 0x10#8, 0x41#8], 3⟩ := by decide

/-- T4, T5 and V7.6: a foreign frame, an overlong payload, a GET frame. -/
theorem test_frame_corners :
    shown (exec (.frame 0x46#8 .set [0xAA#8]) (fresh 2 8 8)) =
      some ⟨.scanPreamble1, .kind .noop, [0x00#8], 0⟩ ∧
    shown (exec (.frame 0x43#8 .set [0xAA#8, 0xBB#8, 0xCC#8]) (fresh 2 8 8)) =
      some ⟨.scanPreamble1, .kind .set, [0xAA#8], 1⟩ ∧
    shown (exec (.frame 0x43#8 .get [0x00#8]) (fresh 2 8 8)) =
      some ⟨.scanPreamble1, .kind .noop, [0x00#8], 0⟩ := by decide

/-! ## One step each: the host operations -/

/-- V1.2, V1.8, V1.9, V1.13. -/
theorem test_get_bit :
    resultOf (exec (.getBit 1) { fresh 0 16 8 with rx := [(0, 0xAA#8)] }) = some (.bool true) ∧
    resultOf (exec (.getBit 7) { fresh 0 16 8 with rx := [(0, 0xAA#8)] }) = some (.bool true) ∧
    resultOf (exec (.getBit 0) { fresh 0 16 8 with rx := [(0, 0xAA#8)] }) = some (.bool false) ∧
    resultOf (exec (.getBit 8) { fresh 0 16 8 with rx := [(0, 0xAA#8)] }) = some (.bool false) ∧
    resultOf (exec (.getBit 0) (fresh 0 8 0)) = some (.bool false) := by decide

/-- V1.11, V1.12, V1.14. -/
theorem test_get_byte :
    resultOf (exec (.getByte 0) { fresh 0 16 8 with rx := [(0, 0xAA#8)] }) = some (.byte 0xAA#8) ∧
    resultOf (exec (.getByte 1) { fresh 0 16 8 with rx := [(0, 0xAA#8)] }) = some (.byte 0x00#8) ∧
    resultOf (exec (.getByte 0) (fresh 0 8 0)) = some (.byte 0x00#8) := by decide

/-- V2.1, V2.2. -/
theorem test_set_bit_sets :
    txAfter (exec (.setBit 15 true) (fresh 0 16 8)) = some (.bool true, [0x00#8, 0x80#8]) ∧
    txAfter (exec (.setBit 16 true) (fresh 0 16 8)) = some (.bool false, [0x00#8, 0x00#8]) := by decide

/-- V2.8, V2.4. -/
theorem test_set_bit_clears :
    txAfter (exec (.setBit 9 false) { fresh 0 16 8 with tx := [(0, 0x01#8), (1, 0xFF#8)] }) =
      some (.bool true, [0x01#8, 0xFD#8]) ∧
    txAfter (exec (.setBit 15 false) { fresh 0 16 8 with tx := [(0, 0x01#8), (1, 0x80#8)] }) =
      some (.bool true, [0x01#8, 0x00#8]) := by decide

/-- V2.5, V2.6, V2.9. -/
theorem test_set_byte :
    txAfter (exec (.setByte 1 0xFF#8) (fresh 0 16 8)) = some (.bool true, [0x00#8, 0xFF#8]) ∧
    txAfter (exec (.setByte 2 0x01#8) (fresh 0 16 8)) = some (.bool false, [0x00#8, 0x00#8]) ∧
    txAfter (exec (.setByte 0 0x00#8) { fresh 0 16 8 with tx := [(0, 0x01#8), (1, 0xFD#8)] }) =
      some (.bool true, [0x00#8, 0xFD#8]) := by decide

/-- V3.1. -/
theorem test_resize_shrinks :
    buffersAfter (exec (.resize 8 16) { fresh 0 24 24 with
      rx := [(0, 0x01#8), (1, 0x02#8), (2, 0x03#8)], tx := [(0, 0x04#8), (1, 0x05#8), (2, 0x06#8)] }) =
    some ([0x01#8, 0x02#8], [0x04#8]) := by decide

/-- V3.2: from the end of V3.1. -/
theorem test_resize_grows :
    buffersAfter (exec (.resize 17 17) { fresh 0 8 16 with
      rx := [(0, 0x01#8), (1, 0x02#8)], tx := [(0, 0x04#8)] }) =
    some ([0x01#8, 0x02#8, 0x00#8], [0x04#8, 0x00#8, 0x00#8]) := by decide

/-- V3.6, V3.7. -/
theorem test_set_address :
    (next? (exec (.setAddress 3) (fresh 2 8 8))).map (fun t => t.node_address) = some 3 ∧
    next? (exec (.setAddress 191) (fresh 2 8 8)) = none := by decide

/-- R240: RESET clears the block and keeps the streams; V3.8. -/
theorem test_reset :
    next? (exec (.reset 7 16 8) { v4 .readData with tx := [(0, 0x7E#8)], in_stream := [0x03#8] }) =
      some { fresh 7 16 8 with in_stream := [0x03#8] } ∧
    next? (exec (.reset 191 8 8) (fresh 2 8 8)) = none := by decide

/-- V6.5: 13 bytes, two of TX's escaped. -/
theorem test_encode :
    outAfter (exec .encode { fresh 2 40 0 with
      tx := [(0, 0xFF#8), (1, 0x02#8), (2, 0x03#8), (3, 0x10#8), (4, 0x41#8)] }) =
    some (.none, [0xFF#8, 0xFF#8, 0x02#8, 0x43#8, 0x52#8, 0xFF#8, 0x02#8, 0x10#8, 0x03#8, 0x10#8, 0x10#8,
      0x41#8, 0x03#8]) := by decide

/-- V6.6, V6.4: the largest address and an empty TX. -/
theorem test_encode_edges :
    outAfter (exec .encode { fresh 190 8 8 with tx := [(0, 0x55#8)] }) =
      some (.none, [0xFF#8, 0xFF#8, 0x02#8, 0xFF#8, 0x52#8, 0x55#8, 0x03#8]) ∧
    outAfter (exec .encode (fresh 0 0 8)) =
      some (.none, [0xFF#8, 0xFF#8, 0x02#8, 0x41#8, 0x52#8, 0x03#8]) := by decide

/-- R190: PROCESS takes one byte in its first iteration and returns on the one that ends a SET frame. -/
theorem test_process :
    (next? (exec .process { v4 .readData with in_stream := [0x03#8, 0xFF#8] })).map
      (fun t => (t.proc_active, t.result, t.in_stream)) = some (false, .kind .set, [0xFF#8]) ∧
    (next? (exec .process { v4 .readData with in_stream := [0xAA#8, 0x03#8] })).map
      (fun t => (t.proc_active, t.result, t.in_stream)) = some (true, .kind .noop, [0x03#8]) := by decide

/-- V7.1, T8: with nothing available, NOOP. -/
theorem test_process_idle :
    shown (exec .process (v4 .readData)) = some ⟨.readData, .kind .noop, [0x11#8, 0x22#8], 1⟩ := by decide

/-! ## The step -/

/-- A word placed for the fetch is the next byte the step runs. -/
theorem test_step_runs_placed_word :
    (next? (step (State.reset.withFetchWord 8 0xFF))).map (fun t => (t.dec_state, t.in_stream)) =
      some (.scanPreamble2, []) := by decide

/-- V7.2's last step: the POLL's command byte, with its ETX left. -/
theorem test_step_poll :
    (next? (step { v4 .readCommand with proc_active := true, in_stream := [0x50#8, 0x03#8] })).map
      (fun t => (t.proc_active, t.out_stream, t.in_stream)) =
    some (false, [0xFF#8, 0xFF#8, 0x02#8, 0x43#8, 0x52#8, 0x00#8, 0x03#8], [0x03#8]) := by decide

/-- R260: an iteration under a steady supply of noise leaves the same state, the call in progress. -/
theorem test_step_steady_noise :
    next? (step { fresh 2 8 8 with
      proc_active := true, supply := .steady [0x00#8], result := .kind .noop }) =
    some { fresh 2 8 8 with
      proc_active := true, supply := .steady [0x00#8], result := .kind .noop } := by decide

/-- R220: the host cannot issue DECODE_STEP, R102: FEED appends. -/
theorem test_step_script :
    next? (step { fresh 2 8 8 with script := [.call ⟨.decodeStep, [.byte 0xFF#8]⟩] }) = none ∧
    (next? (step { fresh 2 8 8 with script := [.feed [0xFF#8]] })).map (fun t => t.in_stream) =
      some [0xFF#8] := by decide

/-! ## Witnesses: for every statement with hypotheses, states and operands that meet them -/

/-- A state that meets the invariants, with a bounded platform and something in every field. -/
def busy : State :=
  { fresh 190 16 16 with
    cfg := ⟨some 2, some 2, some 4, 5⟩, rx := [(1, 0x03#8)], tx := [(0, 0x10#8), (1, 0x7E#8)]
    dec_state := .readData, rx_index := 1 }

theorem busy_inv : busy.Inv := ⟨by decide, by decide, by decide, by decide, by decide, by decide⟩

theorem witness_FrameDecodeInvertsEncode :
    (0x41 ≤ (0x41#8 : Byte).toNat ∧ (([0x03#8, 0x10#8] : List Byte) ≠ [] → Cmd.set = .set ∨ Cmd.set = .get)) ∧
    (0x41 ≤ (0xFF#8 : Byte).toNat ∧ (([] : List Byte) ≠ [] → Cmd.poll = .set ∨ Cmd.poll = .get)) := by
  decide

theorem witness_RequestHasOneMeaning :
    decodeRequest ⟨.setBit, [.nat 15, .bool true]⟩ = .ok (.setBit 15 true) := rfl

theorem witness_ScanStatesHuntForPreamble :
    (v4 .scanPreamble1).dec_state = .scanPreamble1 ∧ (v4 .scanPreamble2).dec_state = .scanPreamble2 := by
  decide

theorem witness_PreambleRunsCountModuloThree :
    (v4 .scanPreamble3).dec_state = .scanPreamble3 ∧ (fresh 2 8 8).dec_state = .scanPreamble1 := by decide

/-- 0x43 is node 2's byte, 0x41, 0x42, 0x44 and 0xFF are foreign to it, 0x40 is no address. -/
theorem witness_AddressByteIsClassified :
    (v4 .readAddress).dec_state = .readAddress ∧
    (0x43#8 : Byte).toNat = 0x41 + (v4 .readAddress).node_address ∧
    (∀ b ∈ [0x41#8, 0x42#8, 0x44#8, 0xFF#8],
      (b : Byte).toNat ≠ 0x41 + (v4 .readAddress).node_address ∧ 0x41 ≤ b.toNat) ∧
    (0x40#8 : Byte).toNat < 0x41 ∧
    (0xFF#8 : Byte).toNat = 0x41 + { busy with dec_state := .readAddress }.node_address := by decide

theorem witness_CommandByteActs :
    (v4 .readCommand).dec_state = .readCommand ∧ (0x52#8 : Byte) ≠ 0x54#8 ∧ (0x52#8 : Byte) ≠ 0x50#8 := by
  decide

/-- Both with room and with RX full; a plain byte and the two special ones. -/
theorem witness_PayloadBytesAreStored :
    bufferOk (v4 .readData).rx (v4 .readData).rx_cap = true ∧ (v4 .readData).dec_state = .readData ∧
    (0xFF#8 : Byte) ≠ 0x10#8 ∧ (0xFF#8 : Byte) ≠ 0x03#8 ∧
    bufferOk (v4full .readEscapedData).rx (v4full .readEscapedData).rx_cap = true ∧
    (v4full .readEscapedData).dec_state = .readEscapedData := by decide

theorem witness_ForeignFrameStatesSkip :
    (v4 .ignoreCommand).dec_state = .ignoreCommand ∧ (v4 .ignoreData).dec_state = .ignoreData ∧
    (v4 .ignoreEscapedData).dec_state = .ignoreEscapedData := by decide

theorem witness_ScanRowsAct :
    (v4 .scanPreamble1).dec_state = .scanPreamble1 ∧ (v4 .scanPreamble2).dec_state = .scanPreamble2 ∧
    (v4 .scanPreamble3).dec_state = .scanPreamble3 ∧ (0x02#8 : Byte) ≠ 0xFF#8 ∧
    (0xFF#8 : Byte) ≠ 0x02#8 := by decide

theorem witness_AddressRowsAct :
    (v4 .readAddress).dec_state = .readAddress ∧
    (0x43#8 : Byte).toNat = 0x41 + (v4 .readAddress).node_address ∧
    (0x44#8 : Byte).toNat ≠ 0x41 + (v4 .readAddress).node_address ∧ 0x41 ≤ (0x44#8 : Byte).toNat ∧
    (0x40#8 : Byte).toNat < 0x41 := by decide

theorem witness_CommandRowsAct :
    (v4 .readCommand).dec_state = .readCommand ∧ (0x49#8 : Byte) ≠ 0x54#8 ∧ (0x49#8 : Byte) ≠ 0x50#8 := by
  decide

theorem witness_PayloadRowsAct :
    bufferOk (v4 .readData).rx (v4 .readData).rx_cap = true ∧ (v4 .readData).dec_state = .readData ∧
    (0x00#8 : Byte) ≠ 0x10#8 ∧ (0x00#8 : Byte) ≠ 0x03#8 ∧
    bufferOk (v4 .readEscapedData).rx (v4 .readEscapedData).rx_cap = true ∧
    (v4 .readEscapedData).dec_state = .readEscapedData := by decide

theorem witness_ForeignRowsAct :
    (v4 .ignoreCommand).dec_state = .ignoreCommand ∧ (v4 .ignoreData).dec_state = .ignoreData ∧
    (0xAA#8 : Byte) ≠ 0x10#8 ∧ (0xAA#8 : Byte) ≠ 0x03#8 ∧
    (v4 .ignoreEscapedData).dec_state = .ignoreEscapedData := by decide

theorem witness_OtherRowsChangeNothing :
    Instr.decRdEtx.wf = true ∧ encode .decRdEtx = .cell 0 .readData 0x03#8 ∧
    Instr.decRdEtx ≠ decodeCell (v4 .readEscapedData).node_address (v4 .readEscapedData).dec_state 0x03#8 :=
  ⟨rfl, rfl, by decide⟩

theorem witness_FrameEndsExactlyHere :
    (v4 .readData).dec_state ≠ .scanPreamble1 ∧ (v4 .scanPreamble2).dec_state ≠ .scanPreamble1 := by decide

/-- A next frame's header is payload of a frame that lost its ETX (V5.4). -/
theorem witness_LostTerminatorSwallowsInput :
    unescape false [0x01#8, 0xFF#8, 0xFF#8, 0x02#8, 0x43#8, 0x10#8, 0x03#8, 0x10#8] = none ∧
    unescape true [0x03#8, 0x02#8] = none ∧ (v4 .readData).dec_state = .readData ∧
    (v4 .readEscapedData).dec_state = .readEscapedData ∧ (v4 .ignoreData).dec_state = .ignoreData ∧
    (v4 .ignoreEscapedData).dec_state = .ignoreEscapedData := by decide

theorem witness_SetFrameRoundTrip :
    (v4 .scanPreamble1).dec_state = .scanPreamble1 ∧ (v4 .scanPreamble1).node_address ≤ 190 ∧
    bufferOk (v4 .scanPreamble1).rx (v4 .scanPreamble1).rx_cap = true ∧ (fresh 190 8 8).node_address ≤ 190 := by
  decide

theorem witness_DecoderDependsOnFourRegisters :
    (v4 .readData).dec_state = { busy with node_address := 2 }.dec_state ∧
    (v4 .readData).rx_index = { busy with node_address := 2 }.rx_index ∧
    (v4 .readData).rx_cap = { busy with node_address := 2 }.rx_cap ∧
    (v4 .readData).node_address = { busy with node_address := 2 }.node_address ∧
    bufferOk (v4 .readData).rx (v4 .readData).rx_cap = true ∧
    bufferOk { busy with node_address := 2 }.rx { busy with node_address := 2 }.rx_cap = true ∧
    (v4 .readData).rx ≠ { busy with node_address := 2 }.rx := by decide

theorem witness_ErrorClassesAreAbsorbed :
    decodeErrorClass 0x40#8 (v4 .readAddress) = some .noise ∧
    decodeErrorClass 0x03#8 (v4 .readCommand) = some .noise ∧
    decodeErrorClass 0x41#8 (v4 .readAddress) = some .foreign ∧
    decodeErrorClass 0x33#8 (v4full .readData) = some .overlong ∧
    decodeErrorClass 0x03#8 (v4full .readEscapedData) = some .overlong := by decide

theorem witness_HeaderBytesReceived :
    (v4 .scanPreamble1).dec_state = .scanPreamble1 ∧ (v4 .scanPreamble2).dec_state = .scanPreamble2 ∧
    (v4 .scanPreamble3).dec_state = .scanPreamble3 ∧ (v4 .readAddress).dec_state = .readAddress := by decide

theorem witness_CommandBytesReceived : (v4 .readCommand).dec_state = .readCommand := by decide

theorem witness_PayloadControlBytesReceived :
    (v4 .readData).dec_state = .readData ∧ (v4 .ignoreData).dec_state = .ignoreData ∧
    (v4full .readEscapedData).dec_state = .readEscapedData ∧
    bufferOk (v4full .readEscapedData).rx (v4full .readEscapedData).rx_cap = true := by decide

theorem witness_WireRowsRunTheDecodeStep :
    (0x54#8 : Byte) ≠ 0x50#8 ∧ (v4 .readData).dec_state ≠ .readCommand := by decide

theorem witness_OwnSetFrameReceived :
    (v4 .scanPreamble1).dec_state = .scanPreamble1 ∧ (v4 .scanPreamble1).node_address ≤ 190 ∧
    bufferOk (v4 .scanPreamble1).rx (v4 .scanPreamble1).rx_cap = true := by decide

theorem witness_OwnPollFrameReceived :
    (fresh 190 8 8).dec_state = .scanPreamble1 ∧ (fresh 190 8 8).node_address ≤ 190 := by decide

theorem witness_OwnInitAndGetFramesAbandoned :
    (fresh 2 8 8).dec_state = .scanPreamble1 ∧ (fresh 2 8 8).node_address ≤ 190 := by decide

theorem witness_ForeignFrameLeavesNoTrace :
    (fresh 2 8 8).dec_state = .scanPreamble1 ∧ 0x41 ≤ (0x46#8 : Byte).toNat ∧
    (0x46#8 : Byte).toNat ≠ 0x41 + (fresh 2 8 8).node_address ∧
    0x41 ≤ (0x41#8 : Byte).toNat ∧ (0x41#8 : Byte).toNat ≠ 0x41 + (fresh 2 8 8).node_address := by decide

theorem witness_EncodeAppendsOneFrame : busy.node_address ≤ 190 := by decide

theorem witness_ProcessOnEmptyInputChangesNothing :
    busy.in_stream = [] ∧ busy.delivery = [] ∧ busy.proc_active = false ∧
    { busy with arrivals := [[], [0xFF#8]] }.delivery = [] ∧
    { busy with supply := .steady [] }.delivery = [] := by decide

/-- The byte may have waited or arrive now; it may complete nothing, a SET or a POLL. -/
theorem witness_ProcessTakesOneByte :
    ({ v4 .readData with in_stream := [0x03#8] }.in_stream ++
      { v4 .readData with in_stream := [0x03#8] }.delivery : List Byte) = 0x03#8 :: [] ∧
    ({ v4 .readData with arrivals := [[0x03#8], []] }.in_stream ++
      { v4 .readData with arrivals := [[0x03#8], []] }.delivery : List Byte) = 0x03#8 :: [] ∧
    ({ v4 .readData with supply := .steady [0x03#8] }.in_stream ++
      { v4 .readData with supply := .steady [0x03#8] }.delivery : List Byte) = 0x03#8 :: [] ∧
    resultOf (exec (.decodeStep 0xAA#8) (v4 .readData)) = some (.kind .noop) ∧
    resultOf (exec (.decodeStep 0x03#8) (v4 .readData)) = some (.kind .set) ∧
    resultOf (exec (.decodeStep 0x50#8) (v4 .readCommand)) = some (.kind .poll) := by
  refine ⟨?_, ?_, ?_, ?_, ?_, ?_⟩ <;> decide

/-- The four ways the coming deliveries stand in a state. -/
theorem witness_ProcessTakesOneByte_deliveries :
    { busy with arrivals := [[0x03#8], []] }.arrivals = [0x03#8] :: [[]] ∧
    (busy.arrivals = [] ∧ busy.supply = .silent) ∧
    ({ busy with supply := .steady [0x03#8] }.arrivals = [] ∧
      { busy with supply := .steady [0x03#8] }.supply = .steady [0x03#8]) ∧
    ({ busy with supply := .unknown 7 }.arrivals = [] ∧
      { busy with supply := .unknown 7 }.supply = .unknown 7) := by decide

theorem witness_StopRuleLeavesLaterBytes :
    { v4 .readData with proc_active := true }.proc_active = true ∧
    (v4 .readData).dec_state = .readData ∧ (v4 .readCommand).dec_state = .readCommand ∧
    ({ v4 .readData with in_stream := [0x03#8], supply := .steady [0xFF#8] }.in_stream ++
      { v4 .readData with in_stream := [0x03#8], supply := .steady [0xFF#8] }.delivery : List Byte) =
        0x03#8 :: [0xFF#8] ∧
    ({ v4 .readCommand with arrivals := [[0x50#8, 0x03#8]] }.in_stream ++
      { v4 .readCommand with arrivals := [[0x50#8, 0x03#8]] }.delivery : List Byte) =
        0x50#8 :: [0x03#8] := by
  refine ⟨?_, ?_, ?_, ?_, ?_⟩ <;> decide

theorem witness_ProcessReturnsWithinItsInput :
    { busy with proc_active := true, in_stream := [0x03#8, 0xFF#8] }.proc_active = true ∧
    { busy with proc_active := true, in_stream := [0x03#8, 0xFF#8] }.arrivals = [] ∧
    { busy with proc_active := true, in_stream := [0x03#8, 0xFF#8] }.supply = .silent := by decide

theorem witness_ProcessNeedNotReturn :
    (0x00#8 : Byte) ≠ 0xFF#8 ∧
    { fresh 2 8 8 with proc_active := true, supply := .steady [0x00#8] }.proc_active = true ∧
    { fresh 2 8 8 with proc_active := true, supply := .steady [0x00#8] }.dec_state = .scanPreamble1 ∧
    { fresh 2 8 8 with proc_active := true, supply := .steady [0x00#8] }.in_stream = [] ∧
    { fresh 2 8 8 with proc_active := true, supply := .steady [0x00#8] }.arrivals = [] ∧
    { fresh 2 8 8 with proc_active := true, supply := .steady [0x00#8] }.supply = .steady [0x00#8] := by
  decide

/-- A call in progress with a byte at each of its next three checks, none of which completes a frame. -/
theorem witness_ProcessReturnsExactlyWhen :
    { busy with proc_active := true, in_stream := [0x55#8], arrivals := [[], [0x03#8]] }.proc_active = true ∧
    (∀ k < 3, k < ({ busy with in_stream := [0x55#8], supply := .steady [0x66#8] }.in_stream ++
      (State.deliveries (k + 1)
        { busy with in_stream := [0x55#8], supply := .steady [0x66#8] }).flatten).length) ∧
    (∀ k ∈ (decodeRun [0x55#8, 0x66#8, 0x66#8] busy).1, k = .noop) := by
  refine ⟨?_, ?_, ?_⟩ <;> decide

/-- A step that answers a POLL, and one that writes nothing. -/
theorem witness_OutputOnlyAnswersPoll :
    (∃ t, step { v4 .readCommand with proc_active := true, in_stream := [0x50#8] } = .next t ∧
      t.out_stream ≠ []) ∧
    ∃ t, step { v4 .readData with proc_active := true, in_stream := [0x50#8] } = .next t ∧
      t.out_stream = [] := ⟨⟨_, rfl, by decide⟩, ⟨_, rfl, by decide⟩⟩

theorem witness_StepRunsDecodedInstruction :
    (busy.proc_active = false ∧
      { busy with script := [.call ⟨.getBit, [.nat 9]⟩] }.script = .call ⟨.getBit, [.nat 9]⟩ :: [] ∧
      decodeRequest ⟨.getBit, [.nat 9]⟩ = .ok (.getBit 9) ∧ OpName.getBit.isInternal = false) ∧
    ({ busy with proc_active := true, arrivals := [[0x50#8]] }.proc_active = true ∧
      { busy with proc_active := true, arrivals := [[0x50#8]] }.arrive.in_stream = 0x50#8 :: []) ∧
    decodeTableWord 8 0x54 = some .cmdSet := ⟨⟨rfl, rfl, rfl, rfl⟩, ⟨rfl, rfl⟩, rfl⟩

theorem witness_HostMovesOnlyBetweenCalls :
    { busy with proc_active := true }.proc_active = true ∧ busy.proc_active = false ∧ busy.script = [] ∧
    { busy with script := [.feed [0xFF#8]] }.script = .feed [0xFF#8] :: [] := by decide

theorem witness_InternalOperationsClosedToHost :
    busy.proc_active = false ∧ { busy with script := [.call ⟨.encode, []⟩] }.script = .call ⟨.encode, []⟩ :: [] ∧
    ((⟨.encode, []⟩ : Request).op = .decodeStep ∨ (⟨.encode, []⟩ : Request).op = .encode) := by decide

/-- Steps that change the address, a capacity, TX, RX, and the decoder's registers. -/
theorem witness_OnlyTheListedWritersWrite :
    (∃ t, step { busy with script := [.call ⟨.setAddress, [.nat 5]⟩] } = .next t ∧
      t.node_address ≠ busy.node_address) ∧
    (∃ t, step { busy with script := [.call ⟨.resize, [.nat 8, .nat 0]⟩] } = .next t ∧
      t.rx_cap ≠ busy.rx_cap) ∧
    (∃ t, step { busy with script := [.call ⟨.setByte, [.nat 1, .byte 0x00#8]⟩] } = .next t ∧
      t.tx ≠ busy.tx) ∧
    ∃ t, step { busy with proc_active := true, in_stream := [0x55#8] } = .next t ∧ t.rx ≠ busy.rx ∧
      t.rx_index ≠ busy.rx_index :=
  ⟨⟨_, rfl, by decide⟩, ⟨_, rfl, by decide⟩, ⟨_, rfl, by decide⟩, ⟨_, rfl, by decide, by decide⟩⟩

theorem witness_TxSeenOnlyInResponses :
    ({ busy with tx := [] } : State) = { busy with tx := ({ busy with tx := [] } : State).tx } ∧
    ∃ t, step { busy with proc_active := true, dec_state := .readCommand, in_stream := [0x50#8] } =
      .next t ∧ t.result = .kind .poll := ⟨rfl, _, rfl, by decide⟩

/-- tx_cap = 2: bit 15 is the last one inside, bit 16 the first one outside. -/
theorem witness_SetBitWritesOneBit :
    bufferOk busy.tx busy.tx_cap = true ∧ ¬(15 + 1 + 7) / 8 > busy.tx_cap ∧ (16 + 1 + 7) / 8 > busy.tx_cap := by
  decide

theorem witness_SetByteWritesOneByte :
    bufferOk busy.tx busy.tx_cap = true ∧ 1 < busy.tx_cap ∧ 2 ≥ busy.tx_cap := by decide

theorem witness_ResizeKeepsAndZeroFills :
    capFits busy.cfg.tx_cap_max ((16 + 7) / 8) = true ∧ capFits busy.cfg.rx_cap_max ((9 + 7) / 8) = true ∧
    capFits busy.cfg.tx_cap_max ((17 + 7) / 8) = false ∧
    capFits busy.cfg.rx_cap_max ((17 + 7) / 8) = false := by decide

theorem witness_ShrinkThenGrowGivesZero :
    (∃ t u, exec (.resize 8 0) busy = .next t ∧ exec (.resize 16 16) t = .next u) ∧
    busy.Inv ∧ (9 + 7) / 8 = busy.tx_cap ∧ (16 + 7) / 8 = busy.rx_cap :=
  ⟨⟨_, _, rfl, rfl⟩, busy_inv, by decide, by decide⟩

/-- The cursor is 1: a new capacity of 2 has room there, a new capacity of 1 has none. -/
theorem witness_ResizeInsidePayload :
    busy.Inv ∧ busy.dec_state = .readData ∧ (0x55#8 : Byte) ≠ 0x10#8 ∧ (0x55#8 : Byte) ≠ 0x03#8 ∧
    (∃ t, exec (.resize 8 16) busy = .next t) ∧ busy.rx_index < (16 + 7) / 8 ∧
    (∃ t, exec (.resize 8 8) busy = .next t) ∧ (8 + 7) / 8 ≤ busy.rx_index :=
  ⟨busy_inv, by decide, by decide, by decide, ⟨_, rfl⟩, by decide, ⟨_, rfl⟩, by decide⟩

theorem witness_SetAddressWritesTheAddress : 190 ≤ 190 ∧ 190 < 191 := by decide

theorem witness_AddressChangeInsideFrame : (v4 .readCommand).dec_state ≠ .readAddress := by decide

/-- Each refusal happens. -/
theorem witness_RefusalsAreExactlyTheListed :
    exec (.reset 191 8 8) busy = .refused .addressOutOfRange ∧
    exec (.setAddress 191) busy = .refused .addressOutOfRange ∧
    exec (.reset 190 8 17) busy = .refused .capacityTooLarge ∧
    exec (.resize 17 8) busy = .refused .capacityTooLarge := ⟨rfl, rfl, rfl, rfl⟩

theorem witness_ResetWritesTheBlock :
    190 ≤ 190 ∧ capFits busy.cfg.tx_cap_max ((16 + 7) / 8) = true ∧
    capFits busy.cfg.rx_cap_max ((0 + 7) / 8) = true ∧ 190 < 191 ∧
    capFits busy.cfg.tx_cap_max ((17 + 7) / 8) = false ∧
    capFits busy.cfg.rx_cap_max ((17 + 7) / 8) = false := by decide

theorem witness_CreationMeetsTheInvariants :
    190 ≤ 190 ∧ capFits busy.cfg.tx_cap_max ((16 + 7) / 8) = true ∧
    capFits busy.cfg.rx_cap_max ((16 + 7) / 8) = true := by decide

theorem witness_EveryStepKeepsTheInvariants :
    { busy with script := [.call ⟨.setByte, [.nat 0, .byte 0x00#8]⟩] }.Inv ∧
    ∃ t, step { busy with script := [.call ⟨.setByte, [.nat 0, .byte 0x00#8]⟩] } = .next t :=
  ⟨⟨busy_inv.1, busy_inv.2, busy_inv.3, busy_inv.4, busy_inv.5, busy_inv.6⟩, _, rfl⟩

theorem witness_InputIsReadInOrder :
    ∃ t, step { busy with proc_active := true, in_stream := [0x55#8, 0x03#8], arrivals := [[0xFF#8]] } =
      .next t ∧ t.in_stream = [0x03#8, 0xFF#8] := ⟨_, rfl, by decide⟩

end Sys2Proof.Tests
end

section
/-! SUPPORT. What the host's operations can do, each said once, and what an iteration of PROCESS leaves alone. -/

namespace Sys2Proof.Machine

/-! ## The step, by what drives it -/

section step
variable (s : State)

theorem step_active (ha : s.proc_active = true) : step s = .next (processIteration s) := by
  simp [step, ha]

theorem step_idle (ha : s.proc_active = false) (hs : s.script = []) : step s = .next s := by
  simp [step, takeScript, ha, hs]

theorem step_feed (bytes : List Byte) (later : List Move) (ha : s.proc_active = false)
    (hs : s.script = .feed bytes :: later) :
    step s = .next { s with script := later, in_stream := s.in_stream ++ bytes } := by
  simp [step, takeScript, takeMove, State.deliver, ha, hs]

theorem step_call (r : Request) (later : List Move) (i : Instr) (ha : s.proc_active = false)
    (hs : s.script = .call r :: later) (hint : r.op.isInternal = false) (hi : decodeRequest r = .ok i) :
    step s = exec i { s with script := later } := by
  simp [step, takeScript, takeMove, issue, ha, hs, hint, hi]

end step

/-! ## What an iteration of PROCESS leaves alone -/

section iteration
variable (s : State)

@[simp] theorem processIteration_node_address : (processIteration s).node_address = s.node_address := by
  obtain ⟨_, _, _, _, _, _, _, _, h, -⟩ := processIteration_shape s; rw [h]
@[simp] theorem processIteration_rx_cap : (processIteration s).rx_cap = s.rx_cap := by
  obtain ⟨_, _, _, _, _, _, _, _, h, -⟩ := processIteration_shape s; rw [h]
@[simp] theorem processIteration_tx_cap : (processIteration s).tx_cap = s.tx_cap := by
  obtain ⟨_, _, _, _, _, _, _, _, h, -⟩ := processIteration_shape s; rw [h]
@[simp] theorem processIteration_tx : (processIteration s).tx = s.tx := by
  obtain ⟨_, _, _, _, _, _, _, _, h, -⟩ := processIteration_shape s; rw [h]
@[simp] theorem processIteration_script : (processIteration s).script = s.script := by
  obtain ⟨_, _, _, _, _, _, _, _, h, -⟩ := processIteration_shape s; rw [h]
@[simp] theorem processIteration_cfg : (processIteration s).cfg = s.cfg := by
  obtain ⟨_, _, _, _, _, _, _, _, h, -⟩ := processIteration_shape s; rw [h]

end iteration

/-! ## The host's operations, one law each -/

section operations
variable (s t : State)

theorem exec_reset_iff (addr inputBits outputBits : Nat) :
    exec (.reset addr inputBits outputBits) s = .next t ↔
      addr ≤ Wire.NODE_MAX ∧ capacitiesFit inputBits outputBits s = true ∧
        t = { s with
          node_address := addr, tx_cap := capOf inputBits, rx_cap := capOf outputBits, tx := [], rx := []
          dec_state := .scanPreamble1, rx_index := 0, proc_active := false, result := .none } := by
  simp only [exec, execReset, State.ret]
  split_ifs with ha hf
  · simp [ha]
  · simp [hf, Nat.le_of_not_lt ha, eq_comm]
  · simp [hf]

theorem exec_setAddress_iff (addr : Nat) :
    exec (.setAddress addr) s = .next t ↔
      addr ≤ Wire.NODE_MAX ∧ t = { s with node_address := addr, result := .none } := by
  simp only [exec, execSetAddress, State.ret]
  split_ifs with ha
  · simp [ha]
  · simp [Nat.le_of_not_lt ha, eq_comm]

theorem exec_resize_iff (inputBits outputBits : Nat) :
    exec (.resize inputBits outputBits) s = .next t ↔
      capacitiesFit inputBits outputBits s = true ∧
        t = { s with
          rx := Memory.truncate s.rx (min s.rx_cap (capOf outputBits))
          tx := Memory.truncate s.tx (min s.tx_cap (capOf inputBits))
          rx_cap := capOf outputBits, tx_cap := capOf inputBits, result := .none } := by
  simp only [exec, execResize, State.ret]
  split_ifs with hf
  · simp [hf, eq_comm]
  · simp [hf]

/-- TX after one write below its capacity, or as it was. -/
def TxWritten (m : Memory) : Prop := m = s.tx ∨ ∃ i b, i < s.tx_cap ∧ m = Memory.write s.tx i b

/-- SET_BIT succeeds exactly below the capacity, and writes TX and nothing else (R124, R125). -/
theorem exec_setBit (pos : Nat) (value : Bool) :
    ∃ m, TxWritten s m ∧ exec (.setBit pos value) s =
      .next { s with tx := m, result := .bool (decide (byteIndex pos < s.tx_cap)) } := by
  simp only [exec, execSetBit, capOf_succ]
  by_cases h : byteIndex pos < s.tx_cap
  · refine ⟨_, .inr ⟨byteIndex pos,
      withBit (Memory.read s.tx (byteIndex pos)) (bitIndex pos) value, h, rfl⟩, ?_⟩
    rw [if_neg (by omega)]
    simp [State.txWrite, State.ret, h]
  · refine ⟨s.tx, .inl rfl, ?_⟩
    rw [if_pos (by omega)]
    simp [State.ret, h]

/-- SET_BYTE succeeds exactly below the capacity, and writes TX and nothing else (R126). -/
theorem exec_setByte (pos : Nat) (value : Byte) :
    ∃ m, TxWritten s m ∧ exec (.setByte pos value) s =
      .next { s with tx := m, result := .bool (decide (pos < s.tx_cap)) } := by
  simp only [exec, execSetByte]
  by_cases h : pos < s.tx_cap
  · refine ⟨_, .inr ⟨pos, value, h, rfl⟩, ?_⟩
    rw [if_neg (by omega)]
    simp [State.txWrite, State.ret, h]
  · refine ⟨s.tx, .inl rfl, ?_⟩
    rw [if_pos (by omega)]
    simp [State.ret, h]

end operations

/-- What an operation of the host does when it is not refused (R122 to R131, R190, R240). -/
inductive HostEffect (s : State) : OpName → State → Prop
  | reset (addr inputBits outputBits : Nat) (ha : addr ≤ Wire.NODE_MAX)
      (hfit : capacitiesFit inputBits outputBits s = true) :
      HostEffect s .reset { s with
        node_address := addr, tx_cap := capOf inputBits, rx_cap := capOf outputBits, tx := [], rx := []
        dec_state := .scanPreamble1, rx_index := 0, proc_active := false, result := .none }
  | setAddress (addr : Nat) (ha : addr ≤ Wire.NODE_MAX) :
      HostEffect s .setAddress { s with node_address := addr, result := .none }
  | resize (inputBits outputBits : Nat) (hfit : capacitiesFit inputBits outputBits s = true) :
      HostEffect s .resize { s with
        rx := Memory.truncate s.rx (min s.rx_cap (capOf outputBits))
        tx := Memory.truncate s.tx (min s.tx_cap (capOf inputBits))
        rx_cap := capOf outputBits, tx_cap := capOf inputBits, result := .none }
  | read (op : OpName) (hop : op ∈ [.getBit, .getByte]) (v : Result) :
      HostEffect s op { s with result := v }
  | write (op : OpName) (hop : op ∈ [.setBit, .setByte]) (m : Memory) (v : Result) (hm : TxWritten s m) :
      HostEffect s op { s with tx := m, result := v }
  | process : HostEffect s .process (processIteration (s.setActive true))

/-- Every request the host may issue that is not refused has one of these effects. -/
theorem hostEffect_of_exec (r : Request) (i : Instr) (s t : State) (hi : decodeRequest r = .ok i)
    (hint : r.op.isInternal = false) (h : exec i s = .next t) : HostEffect s r.op t := by
  rcases decodeRequest_cases r i hi hint with ⟨a, x, y, rfl, hop⟩ | ⟨a, rfl, hop⟩ | ⟨x, y, rfl, hop⟩ |
    ⟨p, rfl, hop⟩ | ⟨p, rfl, hop⟩ | ⟨p, v, rfl, hop⟩ | ⟨p, v, rfl, hop⟩ | ⟨rfl, hop⟩ <;> rw [hop]
  · obtain ⟨ha, hfit, rfl⟩ := (exec_reset_iff s t a x y).mp h
    exact .reset a x y ha hfit
  · obtain ⟨ha, rfl⟩ := (exec_setAddress_iff s t a).mp h
    exact .setAddress a ha
  · obtain ⟨hfit, rfl⟩ := (exec_resize_iff s t x y).mp h
    exact .resize x y hfit
  · obtain rfl := Host.Outcome.next.inj h
    exact .read _ (by simp) _
  · obtain rfl := Host.Outcome.next.inj h
    exact .read _ (by simp) _
  · obtain ⟨m, hm, he⟩ := exec_setBit s p v
    obtain rfl := Host.Outcome.next.inj (he.symm.trans h)
    exact .write _ (by simp) m _ hm
  · obtain ⟨m, hm, he⟩ := exec_setByte s p v
    obtain rfl := Host.Outcome.next.inj (he.symm.trans h)
    exact .write _ (by simp) m _ hm
  · obtain rfl := Host.Outcome.next.inj h
    exact .process

end Sys2Proof.Machine
end

section
/-! The invariants of R37 (O58, O59). -/

namespace Sys2Proof.Machine

/-- The created buffers are empty and nothing is written yet (R240). -/
theorem create_inv (node inputBits outputBits : Nat) (cfg : Platform) (hnode : node ≤ Wire.NODE_MAX)
    (htx : capFits cfg.tx_cap_max (capOf inputBits) = true)
    (hrx : capFits cfg.rx_cap_max (capOf outputBits) = true) :
    (State.create node inputBits outputBits cfg).Inv :=
  ⟨bufferOk_nil _, bufferOk_nil _, hnode, hrx, htx, rfl⟩

/-- Settles O58: reset is a creation with the parameters of Config. -/
theorem creationMeetsTheInvariants : Obligations.CreationMeetsTheInvariants :=
  ⟨create_inv, create_inv _ _ _ _ (by decide) (by decide) (by decide)⟩

theorem capFits_of_capacitiesFit (inputBits outputBits : Nat) (s : State)
    (h : capacitiesFit inputBits outputBits s = true) :
    capFits s.cfg.rx_cap_max (capOf outputBits) = true ∧ capFits s.cfg.tx_cap_max (capOf inputBits) = true := by
  simpa [capacitiesFit, and_comm] using h

theorem TxWritten.bufferOk {s : State} {m : Memory} (h : TxWritten s m)
    (hok : bufferOk s.tx s.tx_cap = true) : bufferOk m s.tx_cap = true := by
  rcases h with rfl | ⟨i, b, hi, rfl⟩
  · exact hok
  · exact bufferOk_write _ _ _ _ hok hi

/-- An iteration stores payload below the capacity only, and flushes whatever it writes (R58, R141). -/
theorem processIteration_inv (s : State) (h : s.Inv) : (processIteration s).Inv := by
  obtain ⟨left, d, n, m, o, f, v, k, he, -, hm, ho⟩ := processIteration_shape s
  have hrx : bufferOk m s.rx_cap = true := by
    rcases hm with rfl | ⟨b, rfl⟩
    · exact h.rx_ok
    · exact storePayload_bufferOk b s h.rx_ok
  have hsent : f = o.length := by
    rcases ho with ⟨rfl, rfl, -⟩ | ⟨-, -, -, -, hf⟩
    · exact h.all_sent
    · exact hf
  rw [he]
  exact { h with rx_ok := hrx, all_sent := hsent }

theorem HostEffect.inv {s t : State} {op : OpName} (he : HostEffect s op t) (h : s.Inv) : t.Inv := by
  cases he with
  | reset a x y ha hfit =>
    obtain ⟨hrx, htx⟩ := capFits_of_capacitiesFit x y s hfit
    exact ⟨rfl, rfl, ha, hrx, htx, h.all_sent⟩
  | setAddress a ha => exact { h with node_le := ha }
  | resize x y hfit =>
    obtain ⟨hrx, htx⟩ := capFits_of_capacitiesFit x y s hfit
    exact ⟨bufferOk_truncate _ _ _ _ h.rx_ok (min_le_right _ _),
      bufferOk_truncate _ _ _ _ h.tx_ok (min_le_right _ _), h.node_le, hrx, htx, h.all_sent⟩
  | read => exact { h with }
  | write _ _ m v hm => exact { h with tx_ok := hm.bufferOk h.tx_ok }
  | process => exact processIteration_inv _ { h with }

/-- Settles O59, by what drives the step: an iteration, nothing, a delivery, or an operation of the host. -/
theorem everyStepKeepsTheInvariants : Obligations.EveryStepKeepsTheInvariants := by
  intro s t h hstep
  rcases step_cases s t hstep with ⟨-, rfl⟩ | ⟨-, -, rfl⟩ | ⟨bytes, later, -, -, rfl⟩ |
    ⟨r, later, i, -, -, hi, hint, hexec⟩
  · exact processIteration_inv s h
  · exact h
  · exact { h with }
  · exact (hostEffect_of_exec r i _ t hi hint hexec).inv { h with }

end Sys2Proof.Machine
end

section
/-! Who writes what, and when the host may move (O43, O45). -/

namespace Sys2Proof.Machine

/-- Settles O43: in each of the three situations the step is known outright. -/
theorem hostMovesOnlyBetweenCalls : Obligations.HostMovesOnlyBetweenCalls := by
  intro s
  refine ⟨fun ha => ?_, step_idle s, step_feed s⟩
  exact ⟨_, step_active s ha, by simp, by simp, by simp, by simp, by simp, by simp⟩

/-- The writers among the host's operations, element by element (R36). -/
theorem HostEffect.writers {s t : State} {op : OpName} (he : HostEffect s op t)
    (ha : s.proc_active = false) :
    (t.node_address ≠ s.node_address → op ∈ [.reset, .setAddress]) ∧
    (t.rx_cap ≠ s.rx_cap ∨ t.tx_cap ≠ s.tx_cap → op ∈ [.reset, .resize]) ∧
    (t.tx ≠ s.tx → op ∈ [.reset, .resize, .setBit, .setByte]) ∧
    (t.rx ≠ s.rx → op ∈ [.reset, .resize] ∨ op ∈ [.process]) ∧
    (t.dec_state ≠ s.dec_state ∨ t.rx_index ≠ s.rx_index → op ∈ [.reset] ∨ op ∈ [.process]) ∧
    (t.proc_active ≠ s.proc_active → op ∈ [.process]) ∧
    t.cfg = s.cfg := by
  cases he with
  | reset => simp [ha]
  | setAddress => simp
  | resize => simp
  | read => simp
  | write _ hop => simp only [List.mem_cons, List.not_mem_nil, or_false] at hop; simp [hop]
  | process => simp

/-- Settles O45: an iteration may write only what is PROCESS's, and an operation of the host what is its own. -/
theorem onlyTheListedWritersWrite : Obligations.OnlyTheListedWritersWrite := by
  intro s t hstep
  rcases step_cases s t hstep with ⟨ha, rfl⟩ | ⟨-, -, rfl⟩ | ⟨bytes, later, -, -, rfl⟩ |
    ⟨r, later, i, ha, hs, hi, hint, hexec⟩
  · have hp : Processing s := .inl ha
    simp [hp]
  · simp
  · simp
  · have called : ∀ {ops}, r.op ∈ ops → Called s ops := fun hop => ⟨ha, r, later, hs, hop⟩
    have processing : r.op ∈ [.process] → Processing s := fun hop => .inr (called hop)
    obtain ⟨hnode, hcap, htx, hrx, hdec, hact, hcfg⟩ := (hostEffect_of_exec r i _ t hi hint hexec).writers ha
    exact ⟨fun h => called (hnode h), fun h => called (hcap h), fun h => called (htx h),
      fun h => (hrx h).imp called processing, fun h => (hdec h).imp called processing,
      fun h => processing (hact h), hcfg⟩

end Sys2Proof.Machine
end

section
/-! TX is observed in a response only (O46). -/

namespace Sys2Proof.Machine

/-- The second state is the first but for TX, and for the output if the first returned POLL (R35). -/
def TxTwins (t t' : State) : Prop :=
  ∃ m o f, t' = { t with tx := m, out_stream := o, flushed := f } ∧
    (t.result ≠ .kind .poll → o = t.out_stream ∧ f = t.flushed)

/-- The state with other contents of TX. -/
def State.withTx (s : State) (m : Memory) : State := { s with tx := m }

theorem TxTwins.withTx (t : State) (m : Memory) : TxTwins t (t.withTx m) :=
  ⟨m, t.out_stream, t.flushed, rfl, fun _ => ⟨rfl, rfl⟩⟩

section twin
variable (s : State) (m : Memory)

@[simp] theorem State.withTx_dec_state : (s.withTx m).dec_state = s.dec_state := rfl
@[simp] theorem State.withTx_node_address : (s.withTx m).node_address = s.node_address := rfl
@[simp] theorem State.withTx_in_stream : (s.withTx m).in_stream = s.in_stream := rfl

theorem storePayload_withTx (b : Byte) : (s.withTx m).storePayload b = (s.storePayload b).withTx m := by
  unfold State.storePayload State.withTx
  split_ifs <;> rfl

/-- The decoder neither reads TX nor writes it (R140). -/
theorem decodeByte_withTx (b : Byte) :
    decodeByte b (s.withTx m) = ((decodeByte b s).1, (decodeByte b s).2.withTx m) := by
  cases hd : s.dec_state <;>
    simp only [decodeByte, State.withTx_dec_state, hd, inScanPreamble1, inScanPreamble2, inScanPreamble3,
      inReadAddress, inReadCommand, inIgnoreCommand, inReadData, inReadEscapedData, inIgnoreData,
      inIgnoreEscapedData, storePayload_withTx]
  case readAddress =>
    rw [State.withTx_node_address]
    split_ifs <;> rfl
  all_goals (try split_ifs) <;> rfl

theorem arrive_withTx : (s.withTx m).arrive = s.arrive.withTx m := by
  unfold State.arrive State.advance State.delivery State.withTx
  cases s.arrivals <;> rfl

/-- Handling a byte observes TX in the response alone (R192). -/
theorem receiveByte_twins (b : Byte) : TxTwins (receiveByte b s) (receiveByte b (s.withTx m)) := by
  have hdec := decodeByte_withTx s m b
  by_cases hp : (decodeByte b s).1 = .poll
  · rw [receiveByte_poll b s hp, receiveByte_poll b _ (by rw [hdec]; exact hp), hdec,
      encodeResponse_eq, encodeResponse_eq]
    exact ⟨m, _, _, rfl, fun hne => absurd rfl hne⟩
  · rw [receiveByte_not_poll b s hp, receiveByte_not_poll b _ (by rw [hdec]; exact hp), hdec]
    exact .withTx _ m

end twin

/-- Twins return the same kind, so the call ends for both or for neither (R191). -/
theorem TxTwins.ended {t t' : State} (h : TxTwins t t') : TxTwins (endIteration t) (endIteration t') := by
  obtain ⟨m, o, f, ht', ho⟩ := h
  have hres : t'.result = t.result := by rw [ht']
  by_cases hk : t.result = .kind .noop
  · rw [endIteration_noop t hk, endIteration_noop t' (hres.trans hk), ht']
    exact ⟨m, o, f, rfl, ho⟩
  · rw [endIteration_other t hk, endIteration_other t' (hres ▸ hk), ht']
    exact ⟨m, o, f, rfl, ho⟩

theorem processIteration_twins (s : State) (m : Memory) :
    TxTwins (processIteration s) (processIteration (s.withTx m)) := by
  simp only [processIteration, arrive_withTx, State.withTx_in_stream]
  cases s.arrive.in_stream with
  | nil => exact .withTx _ m
  | cons b left => exact (receiveByte_twins (s.arrive.setInput left) m b).ended

/-- An operation of the host is refused, or not, whatever TX holds, and returns the same. -/
theorem exec_twins (r : Request) (i : Instr) (s t : State) (m : Memory) (hi : decodeRequest r = .ok i)
    (hint : r.op.isInternal = false) (h : exec i s = .next t) :
    ∃ t', exec i (s.withTx m) = .next t' ∧ TxTwins t t' := by
  rcases decodeRequest_cases r i hi hint with ⟨a, x, y, rfl, -⟩ | ⟨a, rfl, -⟩ | ⟨x, y, rfl, -⟩ |
    ⟨p, rfl, -⟩ | ⟨p, rfl, -⟩ | ⟨p, v, rfl, -⟩ | ⟨p, v, rfl, -⟩ | ⟨rfl, -⟩
  · obtain ⟨ha, hfit, rfl⟩ := (exec_reset_iff s t a x y).mp h
    exact ⟨_, (exec_reset_iff _ _ a x y).mpr ⟨ha, hfit, rfl⟩, .withTx _ _⟩
  · obtain ⟨ha, rfl⟩ := (exec_setAddress_iff s t a).mp h
    exact ⟨_, (exec_setAddress_iff _ _ a).mpr ⟨ha, rfl⟩, .withTx _ _⟩
  · obtain ⟨hfit, rfl⟩ := (exec_resize_iff s t x y).mp h
    exact ⟨_, (exec_resize_iff _ _ x y).mpr ⟨hfit, rfl⟩, .withTx _ _⟩
  · obtain rfl := Host.Outcome.next.inj h
    exact ⟨_, rfl, .withTx _ _⟩
  · obtain rfl := Host.Outcome.next.inj h
    exact ⟨_, rfl, .withTx _ _⟩
  · obtain ⟨_, -, he⟩ := exec_setBit s p v
    obtain ⟨_, -, he'⟩ := exec_setBit (s.withTx m) p v
    obtain rfl := Host.Outcome.next.inj (he.symm.trans h)
    exact ⟨_, he', .withTx _ _⟩
  · obtain ⟨_, -, he⟩ := exec_setByte s p v
    obtain ⟨_, -, he'⟩ := exec_setByte (s.withTx m) p v
    obtain rfl := Host.Outcome.next.inj (he.symm.trans h)
    exact ⟨_, he', .withTx _ _⟩
  · obtain rfl := Host.Outcome.next.inj h
    exact ⟨_, rfl, processIteration_twins (s.setActive true) m⟩

/-- Two states that differ only in TX step together. -/
theorem step_twins (s t : State) (m : Memory) (hstep : step s = .next t) :
    ∃ t', step (s.withTx m) = .next t' ∧ TxTwins t t' := by
  rcases step_cases s t hstep with ⟨ha, rfl⟩ | ⟨ha, hs, rfl⟩ | ⟨bytes, later, ha, hs, rfl⟩ |
    ⟨r, later, i, ha, hs, hi, hint, hexec⟩
  · exact ⟨_, step_active _ ha, processIteration_twins s m⟩
  · exact ⟨_, step_idle _ ha hs, .withTx _ m⟩
  · exact ⟨_, step_feed _ bytes later ha hs, .withTx _ m⟩
  · rw [step_call (s.withTx m) r later i ha hs hint hi]
    exact exec_twins r i _ t m hi hint hexec

/-- Settles O46: only the response of an iteration reads TX, and it is sent when the kind is POLL. -/
theorem txSeenOnlyInResponses : Obligations.TxSeenOnlyInResponses := by
  intro s s' t hs' hstep
  obtain ⟨_, hstep', m, o, f, rfl, hout⟩ := step_twins s t s'.tx hstep
  exact ⟨_, (congrArg step hs').trans hstep', rfl, rfl, hout⟩

end Sys2Proof.Machine
end

section
/-! The reception of bytes (O33). -/

namespace Sys2Proof.Machine

/-- `t` is `s` after a reception: the decoder's registers, RX below the capacity, appended output and the
result may differ (R36, R141). -/
def ReceivedFrom (s t : State) : Prop :=
  ∃ d n m o f k, t = { s with
      dec_state := d, rx_index := n, rx := m, out_stream := o, flushed := f, result := k } ∧
    (∀ j, s.rx_cap ≤ j → Memory.read m j = Memory.read s.rx j) ∧ s.out_stream <+: o

theorem ReceivedFrom.trans {s t u : State} (hst : ReceivedFrom s t) (htu : ReceivedFrom t u) :
    ReceivedFrom s u := by
  obtain ⟨_, _, _, _, _, _, rfl, hrx, hout⟩ := hst
  obtain ⟨_, _, _, _, _, _, rfl, hrx', hout'⟩ := htu
  exact ⟨_, _, _, _, _, _, rfl, fun j hj => (hrx' j hj).trans (hrx j hj), hout.trans hout'⟩

theorem ReceivedFrom.ret (s : State) (v : Result) : ReceivedFrom s (s.ret v) :=
  ⟨_, _, _, _, _, _, rfl, fun _ _ => rfl, ⟨[], List.append_nil _⟩⟩

/-- The payload store touches no byte of RX at or beyond the capacity (R141). -/
theorem storePayload_read_beyond (b : Byte) (s : State) (j : Nat) (hj : s.rx_cap ≤ j) :
    Memory.read (s.storePayload b).rx j = Memory.read s.rx j := by
  unfold State.storePayload
  split_ifs with hi
  · exact Memory.read_write_other _ _ _ _ (by omega)
  · rfl

theorem receiveByte_receivedFrom (b : Byte) (s : State) : ReceivedFrom s (receiveByte b s) := by
  obtain ⟨d, n, m, o, f, h, hm, ho⟩ := receiveByte_shape b s
  refine ⟨d, n, m, o, f, _, h, fun j hj => ?_, ?_⟩
  · rcases hm with rfl | rfl
    · rfl
    · exact storePayload_read_beyond b s j hj
  · rcases ho with ⟨-, rfl, -⟩ | ⟨-, -, rfl⟩
    · exact ⟨[], List.append_nil _⟩
    · exact ⟨_, rfl⟩

theorem receiveBytes_receivedFrom (bs : List Byte) (s : State) : ReceivedFrom s (receiveBytes bs s) := by
  induction bs generalizing s with
  | nil => exact .ret s _
  | cons b bs ih =>
    have hall := (receiveByte_receivedFrom b s).trans (ih (receiveByte b s))
    simp only [receiveBytes]
    split_ifs
    · exact hall
    · exact hall.trans (.ret _ _)

/-- Settles O33, by induction on the frame's bytes. -/
theorem frameReceptionCompletes : Obligations.FrameReceptionCompletes := by
  intro a c payload s
  obtain ⟨d, n, m, o, f, k, ht, hrx, hout⟩ :=
    receiveBytes_receivedFrom (Wire.frameBytes a (Wire.cmdByte c) payload) s
  exact ⟨_, congrArg Host.Outcome.next ht, rfl, hrx, hout⟩

end Sys2Proof.Machine
end

section
/-! The bytes received: the wire rows as decoder steps (O28), and the order of the input (O60). -/

namespace Sys2Proof.Machine

/-- Away from a POLL in its place, handling a byte is the decoder step with its kind returned (R190, R192). -/
theorem receiveByte_of_no_poll_in_place (b : Byte) (s : State)
    (h : ¬(s.dec_state = .readCommand ∧ b = 0x50#8)) :
    receiveByte b s = (decodeByte b s).2.ret (.kind (decodeByte b s).1) :=
  receiveByte_not_poll b s (mt (decodeByte_poll_iff b s).mp h)

/-- Settles O28: a wire row handles its byte as the session does, which goes beyond the decoder step on a
POLL in its place only. -/
theorem wireRowsRunTheDecodeStep : Obligations.WireRowsRunTheDecodeStep := by
  intro s
  have notPoll (b : Byte) (hb : b ≠ 0x50#8) : Host.Outcome.next (receiveByte b s) = exec (.decodeStep b) s :=
    congrArg Host.Outcome.next (receiveByte_of_no_poll_in_place b s fun h => hb h.2)
  have elsewhere (hd : s.dec_state ≠ .readCommand) :
      Host.Outcome.next (receiveByte 0x50#8 s) = exec (.decodeStep 0x50#8) s :=
    congrArg Host.Outcome.next (receiveByte_of_no_poll_in_place _ s fun h => hd h.1)
  exact ⟨fun b => (decodeByte b s).2.ret (.kind (decodeByte b s).1), fun _ => rfl,
    notPoll _ (by decide), notPoll _ (by decide), notPoll _ (by decide), notPoll _ (by decide),
    notPoll _ (by decide), notPoll _ (by decide), notPoll _ (by decide), notPoll,
    fun hd => ⟨elsewhere hd, elsewhere hd⟩⟩

/-- An iteration of PROCESS takes at most the oldest byte of what waited and what arrives (R190). -/
theorem processIteration_in_stream (s : State) :
    (processIteration s).in_stream = s.in_stream ++ s.delivery ∨
      ∃ b, b :: (processIteration s).in_stream = s.in_stream ++ s.delivery := by
  obtain ⟨_, _, _, _, _, _, _, _, h, hleft, -⟩ := processIteration_shape s
  rw [h]
  exact hleft

/-- Of the host's operations only PROCESS touches the input, and it does so in an iteration (R36). -/
theorem HostEffect.in_stream {s t : State} {op : OpName} (he : HostEffect s op t) :
    t.in_stream = s.in_stream ∨ op = .process ∧ t = processIteration (s.setActive true) := by
  cases he with
  | process => exact .inr ⟨rfl, rfl⟩
  | reset | setAddress | resize | read | write => exact .inl rfl

/-- Settles O60, by what drives the step: only an iteration reads, and a delivery is appended. -/
theorem inputIsReadInOrder : Obligations.InputIsReadInOrder := by
  intro s t hstep
  rcases step_cases s t hstep with ⟨ha, rfl⟩ | ⟨-, -, rfl⟩ | ⟨bytes, later, -, -, rfl⟩ |
    ⟨r, later, i, ha, hs, hi, hint, hexec⟩
  · exact ⟨s.delivery, (processIteration_in_stream s).imp_right fun hread => ⟨hread, .inl ha⟩⟩
  · exact ⟨[], .inl (List.append_nil _).symm⟩
  · exact ⟨bytes, .inl rfl⟩
  · rcases (hostEffect_of_exec r i _ t hi hint hexec).in_stream with hkept | ⟨hop, rfl⟩
    · exact ⟨[], .inl (hkept.trans (List.append_nil _).symm)⟩
    · have hcall : Processing s := .inr ⟨ha, r, later, hs, by simp [hop]⟩
      exact ⟨s.delivery, (processIteration_in_stream _).imp_right fun hread => ⟨hread, hcall⟩⟩

end Sys2Proof.Machine
end

section
/-! The encoded forms: the fixed bytes (O1), the frame (O2) and the request (O4). -/

namespace Sys2Proof

/-- R85: an escaped payload is longer by one byte for each ETX and ESC in it. -/
theorem length_escape (payload : List Byte) :
    (Wire.escape payload).length =
      payload.length + payload.countP (fun p => p = Wire.ETX ∨ p = Wire.ESC) := by
  induction payload with
  | nil => rfl
  | cons p ps ih =>
    have hcons : Wire.escape (p :: ps) = Wire.escapeByte p ++ Wire.escape ps := List.flatMap_cons
    rw [hcons, List.length_append, ih, List.countP_cons, Wire.escapeByte]
    by_cases hp : p = Wire.ETX ∨ p = Wire.ESC <;> simp [hp] <;> omega

/-- A frame has six bytes around its escaped payload (R80). -/
theorem length_frameBytes (a cmd : Byte) (payload : List Byte) :
    (Wire.frameBytes a cmd payload).length = 6 + (Wire.escape payload).length := by
  simp only [Wire.frameBytes, List.length_append, List.length_cons, List.length_nil]
  omega

/-- A well-formed frame is read off the front of its bytes (R80, R84). -/
theorem decodeFrame_frameBytes (a : Byte) (c : Cmd) (payload rest : List Byte)
    (ha : isAddrByte a = true) (hpay : (Wire.carriesPayload c || payload.isEmpty) = true) :
    decodeFrame (Wire.frameBytes a (Wire.cmdByte c) payload ++ rest) = .ok (.frame a c payload, rest) := by
  simp only [Wire.frameBytes, List.cons_append, List.nil_append, List.append_assoc, decodeFrame]
  simp [ha, hpay, unescape_escape]

/-- Settles O2: the receiver's unescaping inverts the sender's escaping. -/
theorem frameDecodeInvertsEncode : Obligations.FrameDecodeInvertsEncode := by
  intro a c payload rest ha hp
  have haddr : isAddrByte a = true := decide_eq_true ha
  have hpay : (Wire.carriesPayload c || payload.isEmpty) = true := by
    by_cases hnil : payload = []
    · simp [hnil]
    · obtain rfl | rfl := hp hnil <;> rfl
  refine ⟨_, rfl, decodeFrame_frameBytes a c payload rest haddr hpay, ?_⟩
  rw [length_frameBytes, length_escape, Nat.add_assoc]

/-- The encoder writes the request an operation was read from (R100, R101). -/
theorem encode_of_decodeRequest (r : Request) (i : Instr) (h : decodeRequest r = .ok i) :
    encode i = .request r := by
  obtain ⟨op, args⟩ := r
  dsimp only [decodeRequest] at h
  split at h <;> cases h <;> rfl

/-- Settles O4: two requests of one operation are both its encoding. -/
theorem requestHasOneMeaning : Obligations.RequestHasOneMeaning := fun r i h =>
  have he := encode_of_decodeRequest r i h
  ⟨he, fun r' h' => Code.request.inj ((encode_of_decodeRequest r' i h').symm.trans he)⟩

/-- Settles O1, by evaluation of the decoders on the words written out. -/
theorem wireWordsDecodeToTableRows : Obligations.WireWordsDecodeToTableRows :=
  ⟨rfl, rfl, rfl, rfl, rfl, rfl, rfl, rfl, rfl, rfl⟩

end Sys2Proof
end

section
/-! The bytes of a frame received one by one in their places (O25, O26, O27). -/

namespace Sys2Proof.Machine

/-- The payload store meets what is claimed of it (R141). -/
theorem storesPayload_storePayload (b : Byte) (s : State) (hb : bufferOk s.rx s.rx_cap = true) :
    StoresPayload b s (s.storePayload b) := by
  unfold StoresPayload
  split_ifs with hroom <;>
    exact ⟨by simp [State.storePayload, hroom], fun a => by simp [read_storePayload b s hb, hroom]⟩

/-- The response is a GET frame of TX (R181). -/
theorem responseOf_eq_frameBytes (s : State) :
    responseOf s = Wire.frameBytes (Wire.addrByte s.node_address) Wire.CMD_GET (Memory.bytes s.tx s.tx_cap) :=
  rfl

/-- Where an address byte takes the decoder of a node: its own, another's, or no address (R145, D2). -/
def afterAddress (node : Nat) (b : Byte) : DecState :=
  if b.toNat = 0x41 + node then .readCommand else if 0x41 ≤ b.toNat then .ignoreCommand else .scanPreamble1

section places
variable (s : State)

/-- A byte on which the decoder step does not return POLL. -/
theorem receiveByte_of_decodeByte {b : Byte} {k : CommandKind} {t : State} (h : decodeByte b s = (k, t))
    (hk : k ≠ .poll) : receiveByte b s = t.ret (.kind k) := by
  rw [receiveByte_not_poll b s (by rw [h]; exact hk), h]

/-- A byte on which the decoder goes to a state and does nothing else. -/
theorem receiveByte_of_goto {b : Byte} {d : DecState} (h : decodeByte b s = (.noop, s.goto d)) :
    receiveByte b s = { s with dec_state := d, result := .kind .noop } :=
  receiveByte_of_decodeByte s h (by decide)

theorem receiveByte_pre_scanPreamble1 (hd : s.dec_state = .scanPreamble1) :
    receiveByte Wire.PRE s = { s with dec_state := .scanPreamble2, result := .kind .noop } :=
  receiveByte_of_goto s (decodeByte_scanPreamble1 _ s hd)

theorem receiveByte_pre_scanPreamble2 (hd : s.dec_state = .scanPreamble2) :
    receiveByte Wire.PRE s = { s with dec_state := .scanPreamble3, result := .kind .noop } :=
  receiveByte_of_goto s (decodeByte_scanPreamble2 _ s hd)

theorem receiveByte_stx_scanPreamble3 (hd : s.dec_state = .scanPreamble3) :
    receiveByte Wire.STX s = { s with dec_state := .readAddress, result := .kind .noop } :=
  receiveByte_of_goto s (decodeByte_scanPreamble3 _ s hd)

theorem inReadAddress_eq (b : Byte) : inReadAddress b s = (.noop, s.goto (afterAddress s.node_address b)) := by
  have hmatch : Wire.addrNat s.node_address = 0x41 + s.node_address := rfl
  have hrange : isAddrByte b = true ↔ 0x41 ≤ b.toNat := decide_eq_true_iff
  simp only [inReadAddress, afterAddress, hmatch, hrange]
  split_ifs <;> rfl

theorem receiveByte_readAddress (b : Byte) (hd : s.dec_state = .readAddress) :
    receiveByte b s = { s with dec_state := afterAddress s.node_address b, result := .kind .noop } :=
  receiveByte_of_goto s ((decodeByte_readAddress b s hd).trans (inReadAddress_eq s b))

theorem receiveByte_set_readCommand (hd : s.dec_state = .readCommand) :
    receiveByte Wire.CMD_SET s = { s with dec_state := .readData, rx_index := 0, result := .kind .noop } :=
  receiveByte_of_decodeByte s (t := (s.setIndex 0).goto .readData) (decodeByte_readCommand _ s hd) (by decide)

/-- POLL is answered with the response of the state it is received in (R146, R192). -/
theorem receiveByte_poll_readCommand (hd : s.dec_state = .readCommand) :
    receiveByte Wire.CMD_POLL s = { s with
      dec_state := .scanPreamble1
      out_stream := s.out_stream ++ responseOf s
      flushed := (s.out_stream ++ responseOf s).length
      result := .kind .poll } := by
  have hstep : decodeByte Wire.CMD_POLL s = (.poll, s.goto .scanPreamble1) := decodeByte_readCommand _ s hd
  rw [receiveByte_poll _ s (by rw [hstep]), hstep, encodeResponse_eq, responseOf_eq_frameBytes]
  rfl

/-- Any command but SET and POLL is abandoned (R146, D5). -/
theorem receiveByte_other_readCommand (b : Byte) (hset : b ≠ Wire.CMD_SET) (hpoll : b ≠ Wire.CMD_POLL)
    (hd : s.dec_state = .readCommand) :
    receiveByte b s = { s with dec_state := .scanPreamble1, result := .kind .noop } := by
  have hstep : decodeByte b s = (.noop, s.goto .scanPreamble1) := by
    rw [decodeByte_readCommand b s hd, inReadCommand, if_neg hset, if_neg hpoll]
  exact receiveByte_of_goto s hstep

theorem receiveByte_esc_readData (hd : s.dec_state = .readData) :
    receiveByte Wire.ESC s = { s with dec_state := .readEscapedData, result := .kind .noop } :=
  receiveByte_of_goto s (decodeByte_readData _ s hd)

theorem receiveByte_etx_readData (hd : s.dec_state = .readData) :
    receiveByte Wire.ETX s = { s with dec_state := .scanPreamble1, result := .kind .set } :=
  receiveByte_of_decodeByte s (t := s.goto .scanPreamble1) (decodeByte_readData _ s hd) (by decide)

theorem receiveByte_esc_ignoreData (hd : s.dec_state = .ignoreData) :
    receiveByte Wire.ESC s = { s with dec_state := .ignoreEscapedData, result := .kind .noop } :=
  receiveByte_of_goto s (decodeByte_ignoreData _ s hd)

theorem receiveByte_etx_ignoreData (hd : s.dec_state = .ignoreData) :
    receiveByte Wire.ETX s = { s with dec_state := .scanPreamble1, result := .kind .noop } :=
  receiveByte_of_goto s (decodeByte_ignoreData _ s hd)

/-- The byte after an ESC is literal payload whatever its value (R149). -/
theorem receiveByte_readEscapedData (b : Byte) (hd : s.dec_state = .readEscapedData) :
    receiveByte b s = ((s.storePayload b).goto .readData).ret (.kind .noop) :=
  receiveByte_of_decodeByte s (decodeByte_readEscapedData b s hd) (by decide)

end places

/-- Settles O25, a byte at a time. -/
theorem headerBytesReceived : Obligations.HeaderBytesReceived := fun b s =>
  ⟨fun hd => congrArg Host.Outcome.next (receiveByte_pre_scanPreamble1 s hd),
    fun hd => congrArg Host.Outcome.next (receiveByte_pre_scanPreamble2 s hd),
    fun hd => congrArg Host.Outcome.next (receiveByte_stx_scanPreamble3 s hd),
    fun hd => congrArg Host.Outcome.next (receiveByte_readAddress s b hd)⟩

/-- Settles O26, a command at a time. -/
theorem commandBytesReceived : Obligations.CommandBytesReceived := fun s hd =>
  ⟨congrArg Host.Outcome.next (receiveByte_other_readCommand s _ (by decide) (by decide) hd),
    congrArg Host.Outcome.next (receiveByte_other_readCommand s _ (by decide) (by decide) hd),
    congrArg Host.Outcome.next (receiveByte_set_readCommand s hd),
    congrArg Host.Outcome.next (receiveByte_poll_readCommand s hd)⟩

/-- Settles O27: after an ESC the two bytes are stored as any other is. -/
theorem payloadControlBytesReceived : Obligations.PayloadControlBytesReceived := by
  intro s
  refine ⟨fun hd => ⟨?_, ?_⟩, fun hd => ⟨?_, ?_⟩, fun hd hb => ?_⟩
  · exact congrArg Host.Outcome.next (receiveByte_esc_readData s hd)
  · exact congrArg Host.Outcome.next (receiveByte_etx_readData s hd)
  · exact congrArg Host.Outcome.next (receiveByte_esc_ignoreData s hd)
  · exact congrArg Host.Outcome.next (receiveByte_etx_ignoreData s hd)
  · have stored (b : Byte) : ∃ t, Host.Outcome.next (receiveByte b s) = (.next t : Answer) ∧
        StoresPayload b s t ∧ t.dec_state = .readData ∧ t.result = .kind .noop :=
      ⟨_, congrArg Host.Outcome.next (receiveByte_readEscapedData s b hd),
        storesPayload_storePayload b s hb, rfl, rfl⟩
    exact ⟨stored _, stored _⟩

end Sys2Proof.Machine
end

section
/-! Frames for this node received whole, with no SET payload (O30, O31). -/

namespace Sys2Proof.Machine

/-- A byte that completes nothing hands on to the next (log entry 29). -/
theorem receiveBytes_cons_noop {b : Byte} {s t : State} (bs : List Byte) (h : receiveByte b s = t)
    (hres : t.result = .kind .noop) : receiveBytes (b :: bs) s = receiveBytes bs t := by
  simp only [receiveBytes, h, if_pos hres]

/-- A byte that completes a frame gives the result, whatever follows (log entry 29). -/
theorem receiveBytes_cons_completes {b : Byte} {s t : State} (bs : List Byte) (h : receiveByte b s = t)
    (hres : t.result ≠ .kind .noop) : receiveBytes (b :: bs) s = (receiveBytes bs t).ret t.result := by
  simp only [receiveBytes, h, if_neg hres]

/-- The four header bytes lead to the state the address byte chooses (R142 to R145). -/
theorem receiveBytes_header (a : Byte) (bs : List Byte) (s : State) (hd : s.dec_state = .scanPreamble1) :
    receiveBytes (Wire.PRE :: Wire.PRE :: Wire.STX :: a :: bs) s =
      receiveBytes bs { s with dec_state := afterAddress s.node_address a, result := .kind .noop } := by
  rw [receiveBytes_cons_noop _ (receiveByte_pre_scanPreamble1 s hd) rfl,
    receiveBytes_cons_noop _ (receiveByte_pre_scanPreamble2 _ rfl) rfl,
    receiveBytes_cons_noop _ (receiveByte_stx_scanPreamble3 _ rfl) rfl,
    receiveBytes_cons_noop _ (receiveByte_readAddress _ a rfl) rfl]

/-- A node's address byte is its own (R81, D4). -/
theorem afterAddress_own (node : Nat) (h : node ≤ 190) :
    afterAddress node (BitVec.ofNat 8 (0x41 + node)) = .readCommand := by
  have hfits : (BitVec.ofNat 8 (0x41 + node)).toNat = 0x41 + node := by
    rw [BitVec.toNat_ofNat, Nat.mod_eq_of_lt (by omega)]
  rw [afterAddress, if_pos hfits]

theorem storePayload_ret (b : Byte) (s : State) (v : Result) :
    (s.ret v).storePayload b = (s.storePayload b).ret v := by
  unfold State.storePayload State.ret
  split_ifs <;> rfl

/-- The decoder does not read the result it finds (R140, log entry 4). -/
theorem decodeByte_ret (b : Byte) (s : State) (v : Result) :
    decodeByte b (s.ret v) = ((decodeByte b s).1, (decodeByte b s).2.ret v) := by
  cases hd : s.dec_state <;>
    simp only [decodeByte, State.ret_dec_state, hd, inScanPreamble1, inScanPreamble2, inScanPreamble3,
      inReadAddress_eq, inReadCommand, inIgnoreCommand, inReadData, inReadEscapedData, inIgnoreData,
      inIgnoreEscapedData, storePayload_ret, State.ret_node_address] <;>
    (try split_ifs) <;> rfl

/-- Nor does the session (R190). -/
theorem receiveByte_ret (b : Byte) (s : State) (v : Result) : receiveByte b (s.ret v) = receiveByte b s := by
  simp only [receiveByte, decodeByte_ret, encodeResponse_eq]
  split_ifs <;> rfl

theorem receiveBytes_ret (bs : List Byte) (s : State) (v : Result) :
    receiveBytes bs (s.ret v) = receiveBytes bs s := by
  cases bs with
  | nil => rfl
  | cons b bs => simp only [receiveBytes, receiveByte_ret]

/-- A frame addressed to this node is received from its command byte on (R145, D4). -/
theorem receiveBytes_ownFrame (cmd : Byte) (payload : List Byte) (s : State)
    (hd : s.dec_state = .scanPreamble1) (hn : s.node_address ≤ 190) :
    receiveBytes (Wire.frameBytes (BitVec.ofNat 8 (0x41 + s.node_address)) cmd payload) s =
      receiveBytes (cmd :: (Wire.escape payload ++ [Wire.ETX]))
        { s with dec_state := .readCommand, result := .kind .noop } := by
  have hheader := receiveBytes_header (BitVec.ofNat 8 (0x41 + s.node_address))
    (cmd :: (Wire.escape payload ++ [Wire.ETX])) s hd
  rw [afterAddress_own s.node_address hn] at hheader
  exact hheader

/-- An ETX between frames is noise (R142). -/
theorem receiveBytes_etx_scanPreamble1 (s : State) (hd : s.dec_state = .scanPreamble1) :
    receiveBytes [Wire.ETX] s = { s with result := .kind .noop } := by
  have hstep : receiveByte Wire.ETX s = { s with dec_state := .scanPreamble1, result := .kind .noop } :=
    receiveByte_of_goto s (decodeByte_scanPreamble1 _ s hd)
  rw [receiveBytes_cons_noop [] hstep rfl, ← hd]
  rfl

/-- A POLL's command byte is answered, and the ETX after it is noise (R157). -/
theorem receiveBytes_poll_etx_readCommand (s : State) (hd : s.dec_state = .readCommand) :
    receiveBytes [Wire.CMD_POLL, Wire.ETX] s = { s with
      dec_state := .scanPreamble1
      out_stream := s.out_stream ++ responseOf s
      flushed := (s.out_stream ++ responseOf s).length
      result := .kind .poll } := by
  rw [receiveBytes_cons_completes _ (receiveByte_poll_readCommand s hd) (by simp),
    receiveBytes_etx_scanPreamble1 _ rfl]
  rfl

/-- Settles O30: the header leads to the command byte, and the ETX after it back to the state before. -/
theorem ownPollFrameReceived : Obligations.OwnPollFrameReceived := by
  intro s hd hn
  have hheader := receiveBytes_ownFrame Wire.CMD_POLL [] s hd hn
  have hanswer := receiveBytes_poll_etx_readCommand
    { s with dec_state := .readCommand, result := .kind .noop } rfl
  rw [← hd] at hanswer
  exact congrArg Host.Outcome.next (hheader.trans hanswer)

/-- A frame for this node that is abandoned at its command byte is the rest of it received as noise (R186). -/
theorem receiveBytes_abandonedFrame (cmd : Byte) (payload : List Byte) (s : State)
    (hset : cmd ≠ Wire.CMD_SET) (hpoll : cmd ≠ Wire.CMD_POLL)
    (hd : s.dec_state = .scanPreamble1) (hn : s.node_address ≤ 190) :
    receiveBytes (Wire.frameBytes (BitVec.ofNat 8 (0x41 + s.node_address)) cmd payload) s =
      receiveBytes (Wire.escape payload ++ [Wire.ETX]) s := by
  rw [receiveBytes_ownFrame cmd payload s hd hn,
    receiveBytes_cons_noop _ (receiveByte_other_readCommand _ cmd hset hpoll rfl) rfl, ← hd]
  exact receiveBytes_ret _ s (.kind .noop)

/-- Settles O31: both are abandoned at the command byte, and of an INIT only the ETX is left. -/
theorem ownInitAndGetFramesAbandoned : Obligations.OwnInitAndGetFramesAbandoned := by
  intro payload s hd hn
  have abandoned (cmd : Byte) (payload : List Byte) (hset : cmd ≠ Wire.CMD_SET)
      (hpoll : cmd ≠ Wire.CMD_POLL) := receiveBytes_abandonedFrame cmd payload s hset hpoll hd hn
  exact ⟨congrArg Host.Outcome.next
      ((abandoned Wire.CMD_INIT [] (by decide) (by decide)).trans (receiveBytes_etx_scanPreamble1 s hd)),
    congrArg Host.Outcome.next (abandoned Wire.CMD_GET payload (by decide) (by decide))⟩

end Sys2Proof.Machine
end

section
/-! The accessors of the buffer pair and the node address (O47, O48, O49, O53). -/

namespace Sys2Proof.Machine

section accessors
variable (s : State)

theorem exec_setBit_beyond (pos : Nat) (value : Bool) (h : s.tx_cap ≤ byteIndex pos) :
    exec (.setBit pos value) s = .next { s with result := .bool false } := by
  simp only [exec, execSetBit, capOf_succ]
  exact if_pos (Nat.lt_succ_of_le h)

theorem exec_setBit_below (pos : Nat) (value : Bool) (h : byteIndex pos < s.tx_cap) :
    exec (.setBit pos value) s = .next { s with
      tx := Memory.write s.tx (byteIndex pos)
        (withBit (Memory.read s.tx (byteIndex pos)) (bitIndex pos) value)
      result := .bool true } := by
  simp only [exec, execSetBit, capOf_succ]
  exact if_neg (Nat.not_lt_of_le h)

theorem exec_setByte_beyond (pos : Nat) (value : Byte) (h : s.tx_cap ≤ pos) :
    exec (.setByte pos value) s = .next { s with result := .bool false } :=
  if_pos h

theorem exec_setByte_below (pos : Nat) (value : Byte) (h : pos < s.tx_cap) :
    exec (.setByte pos value) s =
      .next { s with tx := Memory.write s.tx pos value, result := .bool true } :=
  if_neg (Nat.not_le_of_lt h)

theorem exec_setAddress_refused (addr : Nat) (h : Wire.NODE_MAX < addr) :
    exec (.setAddress addr) s = .refused .addressOutOfRange :=
  if_pos h

end accessors

/-- What a buffer in its canonical form reads after a write, everywhere. -/
theorem Memory.read_write (m : Memory) (a b : Nat) (v : Byte) (h : Memory.wf m = true) :
    Memory.read (Memory.write m a v) b = if b = a then v else Memory.read m b := by
  split_ifs with hb
  · rw [hb, Memory.read_write_same m a v h]
  · exact Memory.read_write_other m a b v hb

/-- `WithBit` in the vector's own bits: bit k has weight 2^k there too (R121, D3). -/
theorem getLsbD_withBit (b : Byte) (k j : Nat) (v : Bool) (hk : k < 8) (hj : j < 8) :
    (withBit b k v).getLsbD j = if j = k then v else b.getLsbD j := by
  simpa only [bitOf_eq_getLsbD] using bitOf_withBit b k j v hk hj

/-- Settles O47: the bit `BitOf` reads by division is the vector's own. -/
theorem readsOfRx : Obligations.ReadsOfRx := by
  intro pos s
  refine ⟨?_, rfl⟩
  rw [← bitOf_eq_getLsbD]
  rfl

/-- Settles O48: the bound is on the bit's byte (R125), and below it the byte is written with its one bit
changed. -/
theorem setBitWritesOneBit : Obligations.SetBitWritesOneBit := by
  intro pos value s htx
  obtain ⟨hwf, -⟩ := (bufferOk_iff _ _).mp htx
  have hbound : capOf (pos + 1) > s.tx_cap ↔ byteIndex pos ≥ s.tx_cap := by
    rw [capOf_succ]
    exact Nat.lt_succ_iff
  refine ⟨hbound, fun h => exec_setBit_beyond s pos value (hbound.mp h), fun h => ?_⟩
  refine ⟨_, exec_setBit_below s pos value (Nat.lt_of_not_le (mt hbound.mpr h)), rfl, ?_, fun k hk => ?_⟩
  · exact fun a ha => Memory.read_write_other _ _ a _ ha
  · change (Memory.read (Memory.write s.tx (byteIndex pos) _) (byteIndex pos)).getLsbD k = _
    rw [Memory.read_write_same _ _ _ hwf]
    exact getLsbD_withBit _ _ k value (bitIndex_lt pos) hk

/-- Settles O49, on the two sides of the capacity. -/
theorem setByteWritesOneByte : Obligations.SetByteWritesOneByte := by
  intro pos value s htx
  obtain ⟨hwf, -⟩ := (bufferOk_iff _ _).mp htx
  exact ⟨exec_setByte_beyond s pos value, fun h =>
    ⟨_, exec_setByte_below s pos value h, rfl, fun a => Memory.read_write s.tx pos a value hwf⟩⟩

/-- Settles O53, on the two sides of the largest address. -/
theorem setAddressWritesTheAddress : Obligations.SetAddressWritesTheAddress := fun addr s =>
  ⟨fun h => (exec_setAddress_iff s _ addr).mpr ⟨h, rfl⟩, exec_setAddress_refused s addr⟩

end Sys2Proof.Machine
end

section
/-! The resize of the buffer pair (O50, O51). -/

namespace Sys2Proof.Machine

/-- A buffer that holds only the indices below a length loses nothing when cut there. -/
theorem Memory.truncate_of_within (m : Memory) (n : Nat) (h : Memory.within m n = true) :
    Memory.truncate m n = m :=
  List.filter_eq_self.mpr (List.all_eq_true.mp h)

/-- A byte below the old and the new length is kept and every other one reads 0 (R129). -/
theorem Memory.read_truncate_min (m : Memory) (old new a : Nat) :
    Memory.read (Memory.truncate m (min old new)) a =
      if a < old ∧ a < new then Memory.read m a else 0x00#8 := by
  simp only [Memory.read_truncate, lt_min_iff, Memory.unlisted]

section resize
variable (s : State) (i o : Nat)

theorem capacitiesFit_iff :
    capacitiesFit i o s = true ↔
      capFits s.cfg.tx_cap_max (capOf i) = true ∧ capFits s.cfg.rx_cap_max (capOf o) = true :=
  Bool.and_eq_true_iff

theorem exec_resize_refused (h : capacitiesFit i o s = false) :
    exec (.resize i o) s = .refused .capacityTooLarge :=
  if_neg (Bool.eq_false_iff.mp h)

end resize

/-- Settles O50: the resize cuts each buffer at the smaller of its two lengths. -/
theorem resizeKeepsAndZeroFills : Obligations.ResizeKeepsAndZeroFills := by
  intro i o s
  refine ⟨fun htx hrx => ?_, fun h => exec_resize_refused s i o (Bool.and_eq_false_iff.mpr h)⟩
  have hfit := (capacitiesFit_iff s i o).mpr ⟨htx, hrx⟩
  exact ⟨_, (exec_resize_iff s _ i o).mpr ⟨hfit, rfl⟩, Memory.read_truncate_min s.rx s.rx_cap (capOf o),
    Memory.read_truncate_min s.tx s.tx_cap (capOf i), rfl⟩

/-- A byte of a buffer after two resizes: it is the old one below all three lengths, and 0 elsewhere. -/
theorem Memory.read_truncate_truncate (m : Memory) (old mid new a : Nat) :
    Memory.read (Memory.truncate (Memory.truncate m (min old mid)) (min mid new)) a =
      if a < old ∧ a < mid ∧ a < new then Memory.read m a else 0x00#8 := by
  rw [Memory.read_truncate_min, Memory.read_truncate_min, ← ite_and]
  exact if_congr (by omega) rfl rfl

/-- Settles O51: the two resizes cut each buffer at the smallest of its three lengths, and a buffer in order
is not cut by its own. -/
theorem shrinkThenGrowGivesZero : Obligations.ShrinkThenGrowGivesZero := by
  refine ⟨fun i o i' o' s t u hst htu => ?_, fun i o s hinv htx hrx => ?_⟩
  · obtain ⟨-, rfl⟩ := (exec_resize_iff s t i o).mp hst
    obtain ⟨-, rfl⟩ := (exec_resize_iff _ u i' o').mp htu
    have hrx := Memory.read_truncate_truncate s.rx s.rx_cap (capOf o) (capOf o')
    have htx := Memory.read_truncate_truncate s.tx s.tx_cap (capOf i) (capOf i')
    exact ⟨fun a ha => (hrx a).trans (if_neg fun h => Nat.not_lt_of_le ha h.2.1),
      fun a ha => (htx a).trans (if_neg fun h => Nat.not_lt_of_le ha h.2.1),
      fun a h h' h'' => (hrx a).trans (if_pos ⟨h, h', h''⟩),
      fun a h h' h'' => (htx a).trans (if_pos ⟨h, h', h''⟩)⟩
  · have hi : capOf i = s.tx_cap := htx
    have ho : capOf o = s.rx_cap := hrx
    obtain ⟨-, htxIn⟩ := (bufferOk_iff _ _).mp hinv.tx_ok
    obtain ⟨-, hrxIn⟩ := (bufferOk_iff _ _).mp hinv.rx_ok
    refine (exec_resize_iff s _ i o).mpr ⟨(capacitiesFit_iff s i o).mpr ?_, ?_⟩
    · exact ⟨hi ▸ hinv.tx_cap_fits, ho ▸ hinv.rx_cap_fits⟩
    · rw [hi, ho, min_self, min_self, Memory.truncate_of_within _ _ htxIn, Memory.truncate_of_within _ _ hrxIn]

end Sys2Proof.Machine
end

section
/-! The decode table: every cell has its row (O3), what each row does (O11 to O15), and that the decoder step
takes the row of its cell (O16). -/

namespace Sys2Proof.Machine

/-- Settles O3, a decoder state at a time: a row's class is what the tests before it leave. -/
theorem everyCellHasItsRow : Obligations.EveryCellHasItsRow := by
  intro node st b
  cases st with
  | scanPreamble1 | scanPreamble2 =>
    obtain rfl | hb := eq_or_ne b Wire.PRE
    · exact ⟨rfl, 0, rfl⟩
    · simp [decodeCell, hb, Instr.wf, encode]
  | scanPreamble3 =>
    obtain rfl | hb := eq_or_ne b Wire.STX
    · exact ⟨rfl, 0, rfl⟩
    · simp [decodeCell, hb, Instr.wf, encode]
  | readAddress =>
    by_cases hmatch : b.toNat = Wire.addrNat node
    · have haddr : isAddrByte b = true := decide_eq_true (by rw [hmatch]; exact Nat.le_add_right _ _)
      simp [decodeCell, hmatch, haddr, Instr.wf, encode]
    · by_cases haddr : isAddrByte b = true <;> simp [decodeCell, hmatch, haddr, Instr.wf, encode]
  | readCommand =>
    obtain rfl | hset := eq_or_ne b Wire.CMD_SET
    · exact ⟨rfl, 0, rfl⟩
    obtain rfl | hpoll := eq_or_ne b Wire.CMD_POLL
    · exact ⟨rfl, 0, rfl⟩
    · simp [decodeCell, hset, hpoll, Instr.wf, encode]
  | readData | ignoreData =>
    obtain rfl | hesc := eq_or_ne b Wire.ESC
    · exact ⟨rfl, 0, rfl⟩
    obtain rfl | hetx := eq_or_ne b Wire.ETX
    · exact ⟨rfl, 0, rfl⟩
    · simp [decodeCell, hesc, hetx, Instr.wf, encode]
  | ignoreCommand | readEscapedData | ignoreEscapedData => exact ⟨rfl, 0, rfl⟩

/-- A row in its state, on a byte of its class (R152). -/
theorem takeRow_selected {st dest : DecState} {selected : Bool} {action : State → State} {k : CommandKind}
    {s : State} (hd : s.dec_state = st) (hsel : selected = true) :
    takeRow st selected action dest k s = .next (((action s).goto dest).ret (.kind k)) :=
  if_pos ⟨hd, hsel⟩

/-- The class of `any` in the rows after two others (R152). -/
theorem bne_and_bne_of_ne {b c d : Byte} (hc : b ≠ c) (hd : b ≠ d) : (b != c && b != d) = true := by
  simp [hc, hd]

/-- Settles O11, a row at a time. -/
theorem scanRowsAct : Obligations.ScanRowsAct := fun _ _ =>
  ⟨fun hd => ⟨takeRow_selected hd rfl, fun hb => takeRow_selected hd (bne_iff_ne.mpr hb)⟩,
    fun hd => ⟨takeRow_selected hd rfl, fun hb => takeRow_selected hd (bne_iff_ne.mpr hb)⟩,
    fun hd => ⟨takeRow_selected hd rfl, fun hb => takeRow_selected hd (bne_iff_ne.mpr hb)⟩⟩

/-- Settles O12: a byte below 0x41 is neither the node's address byte nor another's. -/
theorem addressRowsAct : Obligations.AddressRowsAct := by
  intro b s hd
  refine ⟨fun hb => takeRow_selected hd (beq_iff_eq.mpr hb), fun hb haddr => takeRow_selected hd ?_,
    fun hlow => takeRow_selected hd ?_⟩
  · exact Bool.and_eq_true_iff.mpr ⟨bne_iff_ne.mpr hb, decide_eq_true haddr⟩
  · have hne : b.toNat ≠ Wire.addrNat s.node_address := fun h => by
      have : Wire.addrNat s.node_address = 0x41 + s.node_address := rfl
      omega
    have hlow' : isAddrByte b = false := decide_eq_false (Nat.not_le_of_lt hlow)
    simp [hne, hlow']

/-- Settles O13, a row at a time. -/
theorem commandRowsAct : Obligations.CommandRowsAct := fun _ _ hd =>
  ⟨takeRow_selected (action := fun s => s.setIndex 0) hd rfl, takeRow_selected hd rfl,
    fun hset hpoll => takeRow_selected hd (bne_and_bne_of_ne hset hpoll)⟩

/-- A payload byte stored on the way to ReadData, as the payload rows claim it (R141). -/
theorem stored_of_next {b : Byte} {s : State} {x : Answer} (hb : bufferOk s.rx s.rx_cap = true)
    (hx : x = .next (((s.storePayload b).goto .readData).ret (.kind .noop))) :
    ∃ t, x = .next t ∧ StoresPayload b s t ∧
      t = { s with rx := t.rx, rx_index := t.rx_index, dec_state := .readData, result := .kind .noop } := by
  refine ⟨_, hx, storesPayload_storePayload b s hb, ?_⟩
  rw [storePayload_shape]
  rfl

/-- Settles O14: the last row of each state stores its byte. -/
theorem payloadRowsAct : Obligations.PayloadRowsAct := fun _ _ hb =>
  ⟨fun hd => ⟨takeRow_selected hd rfl, takeRow_selected hd rfl,
      fun hesc hetx => stored_of_next hb (takeRow_selected hd (bne_and_bne_of_ne hesc hetx))⟩,
    fun hd => stored_of_next hb (takeRow_selected hd rfl)⟩

/-- Settles O15, a row at a time. -/
theorem foreignRowsAct : Obligations.ForeignRowsAct := fun _ _ =>
  ⟨fun hd => takeRow_selected hd rfl,
    fun hd => ⟨takeRow_selected hd rfl, takeRow_selected hd rfl,
      fun hesc hetx => takeRow_selected hd (bne_and_bne_of_ne hesc hetx)⟩,
    fun hd => takeRow_selected hd rfl⟩

theorem State.goto_self {s : State} {d : DecState} (hd : s.dec_state = d) : s.goto d = s := by
  rw [← hd]
  rfl

/-- Settles O16, a decoder state at a time: each branch of the state's rule is the row of the same byte class. -/
theorem decodeStepTakesSelectedRow : Obligations.DecodeStepTakesSelectedRow := by
  intro b s
  have step : exec (.decodeStep b) s = .next ((decodeByte b s).2.ret (.kind (decodeByte b s).1)) := rfl
  rw [step]
  symm
  cases hd : s.dec_state with
  | scanPreamble1 | scanPreamble2 | scanPreamble3 =>
    simp only [decodeByte, hd, inScanPreamble1, inScanPreamble2, inScanPreamble3, decodeCell]
    split_ifs with hb
    · exact takeRow_selected hd rfl
    · exact takeRow_selected hd (bne_iff_ne.mpr hb)
  | readAddress =>
    rw [decodeByte_readAddress b s hd, inReadAddress, decodeCell]
    split_ifs with hmatch haddr
    · exact takeRow_selected hd (beq_iff_eq.mpr hmatch)
    · exact takeRow_selected hd (Bool.and_eq_true_iff.mpr ⟨bne_iff_ne.mpr hmatch, haddr⟩)
    · exact takeRow_selected hd (Bool.and_eq_true_iff.mpr ⟨bne_iff_ne.mpr hmatch, by simpa using haddr⟩)
  | readCommand =>
    rw [decodeByte_readCommand b s hd, inReadCommand, decodeCell]
    split_ifs with hset hpoll
    · exact takeRow_selected (action := fun s => s.setIndex 0) hd rfl
    · exact takeRow_selected hd rfl
    · exact takeRow_selected hd (bne_and_bne_of_ne hset hpoll)
  | readData =>
    rw [decodeByte_readData b s hd, inReadData, decodeCell]
    split_ifs with hesc hetx
    · exact takeRow_selected hd rfl
    · exact takeRow_selected hd rfl
    · have hstay : (s.storePayload b).goto .readData = s.storePayload b := State.goto_self (by simp [hd])
      have hrow : exec (.decRdAny b) s = .next (((s.storePayload b).goto .readData).ret (.kind .noop)) :=
        takeRow_selected hd (bne_and_bne_of_ne hesc hetx)
      rw [hrow, hstay]
  | ignoreData =>
    rw [decodeByte_ignoreData b s hd, inIgnoreData, decodeCell]
    split_ifs with hesc hetx
    · exact takeRow_selected hd rfl
    · exact takeRow_selected hd rfl
    · exact takeRow_selected hd (bne_and_bne_of_ne hesc hetx)
  | ignoreCommand | readEscapedData | ignoreEscapedData =>
    simp only [decodeByte, hd]
    exact takeRow_selected hd rfl

end Sys2Proof.Machine
end

section
/-! The decoder step in each state, read off the row it takes (O5, O7 to O10), and the transitions back to
scanning (O18). -/

namespace Sys2Proof.Machine

/-- The decoder step in a given state is the row of that state. -/
theorem exec_decodeStep_eq_row {b : Byte} {s : State} {st : DecState} (hd : s.dec_state = st) :
    exec (.decodeStep b) s = exec (decodeCell s.node_address st b) s :=
  hd ▸ decodeStepTakesSelectedRow b s

/-- Settles O5, from the rows of the two states. -/
theorem scanStatesHuntForPreamble : Obligations.ScanStatesHuntForPreamble := by
  intro b s
  obtain ⟨rows1, rows2, -⟩ := scanRowsAct b s
  refine ⟨fun hd => ?_, fun hd => ?_⟩
  · rw [exec_decodeStep_eq_row hd, decodeCell]
    split_ifs with hb
    · exact (rows1 hd).1
    · exact (rows1 hd).2 hb
  · rw [exec_decodeStep_eq_row hd, decodeCell]
    split_ifs with hb
    · exact (rows2 hd).1
    · exact (rows2 hd).2 hb

/-- The third scanning state goes on at STX (R144). -/
theorem exec_decodeStep_scanPreamble3 (b : Byte) (s : State) (hd : s.dec_state = .scanPreamble3) :
    exec (.decodeStep b) s = .next { s with
      dec_state := if b = 0x02#8 then .readAddress else .scanPreamble1
      result := .kind .noop } := by
  obtain ⟨-, -, rows⟩ := scanRowsAct b s
  rw [exec_decodeStep_eq_row hd, decodeCell]
  split_ifs with hb
  · exact (rows hd).1
  · exact (rows hd).2 hb

/-- Settles O7, from the rows of the state. -/
theorem addressByteIsClassified : Obligations.AddressByteIsClassified := by
  intro b s hd
  obtain ⟨hmatch, hforeign, hlow⟩ := addressRowsAct b s hd
  have hnode : Wire.addrNat s.node_address = 0x41 + s.node_address := rfl
  have haddr : isAddrByte b = true ↔ 0x41 ≤ b.toNat := decide_eq_true_iff
  rw [exec_decodeStep_eq_row hd, decodeCell, hnode]
  refine ⟨fun hb => ?_, fun hne hge => ?_, fun hlt => ?_⟩
  · rw [if_pos hb]
    exact hmatch hb
  · rw [if_neg hne, if_pos (haddr.mpr hge)]
    exact ⟨_, hforeign hne hge, rfl, rfl⟩
  · rw [if_neg (by omega), if_neg (by rw [haddr]; omega)]
    exact hlow hlt

/-- Settles O8, from the rows of the state. -/
theorem commandByteActs : Obligations.CommandByteActs := by
  intro b s hd
  obtain ⟨hset, hpoll, hother⟩ := commandRowsAct b s hd
  rw [exec_decodeStep_eq_row hd]
  refine ⟨?_, ?_, fun hnset hnpoll => ?_⟩
  · rintro rfl
    exact hset
  · rintro rfl
    exact hpoll
  · rw [decodeCell, if_neg hnset, if_neg hnpoll]
    exact hother hnset hnpoll

/-- Settles O9, from the rows of the two states. -/
theorem payloadBytesAreStored : Obligations.PayloadBytesAreStored := by
  intro b s hb
  obtain ⟨rowsRd, rowRe⟩ := payloadRowsAct b s hb
  refine ⟨?_, ?_, ?_⟩
  · rintro hd rfl
    rw [exec_decodeStep_eq_row hd]
    exact (rowsRd hd).1
  · rintro hd rfl
    rw [exec_decodeStep_eq_row hd]
    exact (rowsRd hd).2.1
  · rintro (⟨hd, hesc, hetx⟩ | hd)
    · rw [exec_decodeStep_eq_row hd, decodeCell, if_neg hesc, if_neg hetx]
      exact (rowsRd hd).2.2 hesc hetx
    · rw [exec_decodeStep_eq_row hd]
      exact rowRe hd

/-- Settles O10, from the rows of the three states. -/
theorem foreignFrameStatesSkip : Obligations.ForeignFrameStatesSkip := by
  intro b s
  obtain ⟨rowIc, rowsId, rowIe⟩ := foreignRowsAct b s
  refine ⟨fun hd => ?_, fun hd => ?_, fun hd => ?_⟩
  · rw [exec_decodeStep_eq_row hd]
    exact ⟨_, rowIc hd, rfl, by simp [State.ignoring, hd], rfl⟩
  · obtain ⟨rowEsc, rowEtx, rowAny⟩ := rowsId hd
    have hflag : s.ignoring = true := by simp [State.ignoring, hd]
    rw [exec_decodeStep_eq_row hd, decodeCell]
    split_ifs with hesc hetx
    · exact ⟨_, rowEsc, rfl, hflag, by simp [State.ignoring, hesc]⟩
    · exact ⟨_, rowEtx, rfl, hflag, by simp [State.ignoring, hetx]⟩
    · exact ⟨_, rowAny hesc hetx, rfl, hflag, by simp [State.ignoring, hetx]⟩
  · rw [exec_decodeStep_eq_row hd]
    exact ⟨_, rowIe hd, rfl, by simp [State.ignoring, hd], rfl⟩

end Sys2Proof.Machine
end

section
/-! The transitions back to scanning (O18), and the decoder over byte sequences: runs of preamble marks (O6),
two terminators (O19), the frame (O22) and what it depends on (O23). -/

namespace Sys2Proof.Machine

/-- Settles O18, a decoder state at a time, from what each state does. -/
theorem frameEndsExactlyHere : Obligations.FrameEndsExactlyHere := by
  intro b s hns
  cases hd : s.dec_state with
  | scanPreamble1 => exact absurd hd hns
  | scanPreamble2 => exact ⟨_, (scanStatesHuntForPreamble b s).2 hd, by simp⟩
  | scanPreamble3 => exact ⟨_, exec_decodeStep_scanPreamble3 b s hd, by simp⟩
  | readAddress =>
    obtain ⟨hown, hforeign, hlow⟩ := addressByteIsClassified b s hd
    by_cases hlt : b.toNat < 0x41
    · exact ⟨_, hlow hlt, by simp [hlt]⟩
    by_cases hmatch : b.toNat = 0x41 + s.node_address
    · exact ⟨_, hown hmatch, by simp [hlt]⟩
    · obtain ⟨t, ht, rfl, -⟩ := hforeign hmatch (Nat.le_of_not_lt hlt)
      exact ⟨_, ht, by simp [hlt]⟩
  | readCommand =>
    obtain ⟨hset, hpoll, hother⟩ := commandByteActs b s hd
    by_cases hs : b = 0x54#8
    · exact ⟨_, hset hs, by simp [hs]⟩
    by_cases hp : b = 0x50#8
    · exact ⟨_, hpoll hp, by simp [hp]⟩
    · exact ⟨_, hother hs hp, by simp [hs, hp]⟩
  | ignoreCommand =>
    obtain ⟨t, ht, rfl, -⟩ := (foreignFrameStatesSkip b s).1 hd
    exact ⟨_, ht, by simp⟩
  | ignoreData =>
    obtain ⟨t, ht, rfl, -⟩ := (foreignFrameStatesSkip b s).2.1 hd
    refine ⟨_, ht, ?_⟩
    by_cases hesc : b = 0x10#8
    · simp [hesc]
    · simp [hesc]
  | ignoreEscapedData =>
    obtain ⟨t, ht, rfl, -⟩ := (foreignFrameStatesSkip b s).2.2 hd
    exact ⟨_, ht, by simp⟩
  | readData =>
    refine ⟨_, rfl, ?_⟩
    rw [decodeByte_readData b s hd, inReadData]
    split_ifs with hesc hetx
    · simp [hesc]
    · simp [hetx]
    · simp [hetx, hd]
  | readEscapedData =>
    refine ⟨_, rfl, ?_⟩
    rw [decodeByte_readEscapedData b s hd, inReadEscapedData]
    simp

/-! ## Runs of preamble marks -/

/-- The scanning state after k preamble marks (R144). -/
def afterMarks (k : Nat) : DecState :=
  if k % 3 = 1 then .scanPreamble2 else if k % 3 = 2 then .scanPreamble3 else .scanPreamble1

@[simp] theorem pre_ne_stx : Wire.PRE ≠ Wire.STX := by decide

@[simp] theorem stx_ne_pre : Wire.STX ≠ Wire.PRE := by decide

/-- One more mark: from the third scanning state it leads back to the first (R142 to R144). -/
theorem decodeByte_pre_afterMarks (k : Nat) (s : State) (hd : s.dec_state = afterMarks k) :
    decodeByte Wire.PRE s = (.noop, s.goto (afterMarks (k + 1))) := by
  obtain h | h | h : k % 3 = 0 ∨ k % 3 = 1 ∨ k % 3 = 2 := by omega
  · have hnext : (k + 1) % 3 = 1 := by omega
    rw [decodeByte_scanPreamble1 _ s (by simp [hd, afterMarks, h])]
    simp [inScanPreamble1, afterMarks, hnext]
  · have hnext : (k + 1) % 3 = 2 := by omega
    rw [decodeByte_scanPreamble2 _ s (by simp [hd, afterMarks, h])]
    simp [inScanPreamble2, afterMarks, hnext]
  · have hnext : (k + 1) % 3 = 0 := by omega
    rw [decodeByte_scanPreamble3 _ s (by simp [hd, afterMarks, h])]
    simp [inScanPreamble3, afterMarks, hnext]

/-- A run of marks counts modulo three and does nothing else. -/
theorem decodeRun_marks (k : Nat) (s : State) (hd : s.dec_state = .scanPreamble1) :
    decodeRun (List.replicate k Wire.PRE) s = (List.replicate k .noop, s.goto (afterMarks k)) := by
  induction k with
  | zero => exact congrArg (Prod.mk []) (State.goto_self hd).symm
  | succ k ih =>
    rw [List.replicate_succ', decodeRun_append, ih]
    simp only [decodeRun, decodeByte_pre_afterMarks k (s.goto (afterMarks k)) rfl, List.replicate_succ']
    rfl

/-- An STX synchronises in the third scanning state only (R144). -/
theorem decodeByte_stx_afterMarks (k : Nat) (s : State) (hd : s.dec_state = afterMarks k) :
    (decodeByte Wire.STX s).2.dec_state = .readAddress ↔ k % 3 = 2 := by
  obtain h | h | h : k % 3 = 0 ∨ k % 3 = 1 ∨ k % 3 = 2 := by omega
  · rw [decodeByte_scanPreamble1 _ s (by simp [hd, afterMarks, h])]
    simp [inScanPreamble1, h]
  · rw [decodeByte_scanPreamble2 _ s (by simp [hd, afterMarks, h])]
    simp [inScanPreamble2, h]
  · rw [decodeByte_scanPreamble3 _ s (by simp [hd, afterMarks, h])]
    simp [inScanPreamble3, h]

/-- Settles O6, by induction on the length of the run. -/
theorem preambleRunsCountModuloThree : Obligations.PreambleRunsCountModuloThree := by
  refine ⟨exec_decodeStep_scanPreamble3, fun k s hd => ⟨decodeRun_marks k s hd, ?_⟩⟩
  rw [decodeRun_append, decodeRun_marks k s hd]
  exact decodeByte_stx_afterMarks k _ rfl

/-! ## Terminators -/

/-- Where an ETX takes the decoder: the three states that do not read it as one go on with the payload
(R147, R149, R151). -/
def afterEtx : DecState → DecState
  | .readEscapedData => .readData
  | .ignoreEscapedData | .ignoreCommand => .ignoreData
  | .scanPreamble1 | .scanPreamble2 | .scanPreamble3 | .readAddress | .readCommand | .readData
  | .ignoreData => .scanPreamble1

theorem decodeByte_etx_dec_state (s : State) : (decodeByte Wire.ETX s).2.dec_state = afterEtx s.dec_state := by
  cases hd : s.dec_state with
  | readAddress =>
    have hlow : afterAddress s.node_address Wire.ETX = .scanPreamble1 := by
      have hother : Wire.ETX.toNat ≠ 0x41 + s.node_address := by simp only [BitVec.toNat_ofNat]; omega
      rw [afterAddress, if_neg hother, if_neg (by decide)]
    rw [decodeByte_readAddress _ s hd, inReadAddress_eq, hlow]
    rfl
  | scanPreamble1 => rw [decodeByte_scanPreamble1 _ s hd]; rfl
  | scanPreamble2 => rw [decodeByte_scanPreamble2 _ s hd]; rfl
  | scanPreamble3 => rw [decodeByte_scanPreamble3 _ s hd]; rfl
  | readCommand => rw [decodeByte_readCommand _ s hd]; rfl
  | ignoreCommand => rw [decodeByte_ignoreCommand _ s hd]; rfl
  | readData => rw [decodeByte_readData _ s hd]; rfl
  | readEscapedData => rw [decodeByte_readEscapedData _ s hd]; rfl
  | ignoreData => rw [decodeByte_ignoreData _ s hd]; rfl
  | ignoreEscapedData => rw [decodeByte_ignoreEscapedData _ s hd]; rfl

/-- Settles O19: after one ETX the decoder is in no state that does not read the next one as such. -/
theorem twoTerminatorsResynchronise : Obligations.TwoTerminatorsResynchronise := by
  intro s
  have hone : (decodeRun [Wire.ETX] s).2.dec_state = afterEtx s.dec_state := decodeByte_etx_dec_state s
  have htwo : (decodeRun [Wire.ETX, Wire.ETX] s).2.dec_state = afterEtx (afterEtx s.dec_state) :=
    (decodeByte_etx_dec_state _).trans (congrArg afterEtx hone)
  rw [htwo, hone]
  cases s.dec_state <;> decide

/-! ## What the decoder writes and what it reads -/

/-- A byte sequence writes dec_state, rx_index and RX below the capacity (R140, R141). -/
theorem decodeRun_shape (bs : List Byte) (s : State) :
    ∃ d n m, (decodeRun bs s).2 = { s with dec_state := d, rx_index := n, rx := m } ∧
      ∀ a, s.rx_cap ≤ a → Memory.read m a = Memory.read s.rx a := by
  induction bs generalizing s with
  | nil => exact ⟨_, _, _, rfl, fun _ _ => rfl⟩
  | cons b bs ih =>
    obtain ⟨d, n, m, hstep, hm⟩ := decodeByte_shape b s
    obtain ⟨d', n', m', hrun, hm'⟩ := ih (decodeByte b s).2
    rw [hstep] at hrun hm'
    refine ⟨d', n', m', (congrArg (fun t => (decodeRun bs t).2) hstep).trans hrun, fun a ha => ?_⟩
    rw [hm' a ha]
    rcases hm with rfl | rfl
    · rfl
    · exact storePayload_read_beyond b s a ha

/-- Settles O22, by induction on the bytes. -/
theorem decoderStaysInsideRx : Obligations.DecoderStaysInsideRx := by
  intro bs s
  obtain ⟨d, n, m, hrun, hm⟩ := decodeRun_shape bs s
  rw [hrun]
  exact ⟨hm, rfl⟩

/-- What a decoder step does but for its next state: the cursor reset and the payload store (R141, R146). -/
def payloadEffect (b : Byte) (s : State) : State :=
  match s.dec_state with
  | .readCommand => if b = Wire.CMD_SET then s.setIndex 0 else s
  | .readData => if b = Wire.ESC ∨ b = Wire.ETX then s else s.storePayload b
  | .readEscapedData => s.storePayload b
  | .scanPreamble1 | .scanPreamble2 | .scanPreamble3 | .readAddress | .ignoreCommand | .ignoreData
  | .ignoreEscapedData => s

theorem decodeByte_eq_payloadEffect (b : Byte) (s : State) :
    (decodeByte b s).2 = (payloadEffect b s).goto (decodeByte b s).2.dec_state := by
  cases hd : s.dec_state with
  | readData =>
    simp only [decodeByte_readData b s hd, inReadData, payloadEffect, hd]
    by_cases hesc : b = Wire.ESC
    · simp [hesc]
    by_cases hetx : b = Wire.ETX
    · simp [hetx]
    · simp [hesc, hetx, State.goto_self]
  | readCommand =>
    simp only [decodeByte_readCommand b s hd, inReadCommand, payloadEffect, hd]
    split_ifs <;> rfl
  | scanPreamble1 | scanPreamble2 | scanPreamble3 | ignoreData =>
    simp only [decodeByte, hd, inScanPreamble1, inScanPreamble2, inScanPreamble3, inIgnoreData, payloadEffect]
    split_ifs <;> rfl
  | readAddress => simp only [decodeByte_readAddress b s hd, inReadAddress_eq, payloadEffect, hd]; rfl
  | ignoreCommand => simp only [decodeByte_ignoreCommand b s hd, payloadEffect, hd]; rfl
  | ignoreEscapedData => simp only [decodeByte_ignoreEscapedData b s hd, payloadEffect, hd]; rfl
  | readEscapedData => simp only [decodeByte_readEscapedData b s hd, payloadEffect, hd]; rfl

/-- Two states the decoder does not tell apart: they agree on the four registers it reads (R140). -/
structure DecoderTwins (s t : State) : Prop where
  dec_state : s.dec_state = t.dec_state
  rx_index : s.rx_index = t.rx_index
  rx_cap : s.rx_cap = t.rx_cap
  node_address : s.node_address = t.node_address
  rx_ok : bufferOk s.rx s.rx_cap = true
  rx_ok' : bufferOk t.rx t.rx_cap = true

/-- From `s` and `t` to `u` and `v`, each byte of RX was written alike in both or in neither. -/
def RxWrittenAlike (s t u v : State) : Prop :=
  ∀ a, Memory.read u.rx a = Memory.read v.rx a ∨
    (Memory.read u.rx a = Memory.read s.rx a ∧ Memory.read v.rx a = Memory.read t.rx a)

theorem RxWrittenAlike.refl (s t : State) : RxWrittenAlike s t s t := fun _ => .inr ⟨rfl, rfl⟩

theorem RxWrittenAlike.trans {s t s' t' u v : State} (h : RxWrittenAlike s t s' t')
    (h' : RxWrittenAlike s' t' u v) : RxWrittenAlike s t u v := by
  intro a
  obtain heq | ⟨hu, hv⟩ := h' a
  · exact .inl heq
  · rw [hu, hv]
    exact h a

theorem storePayload_rx_index (b : Byte) (s : State) :
    (s.storePayload b).rx_index = if s.rx_index < s.rx_cap then s.rx_index + 1 else s.rx_index := by
  unfold State.storePayload
  split_ifs <;> rfl

theorem storePayload_twins {s t : State} (b : Byte) (h : DecoderTwins s t) :
    (s.storePayload b).rx_index = (t.storePayload b).rx_index ∧
      RxWrittenAlike s t (s.storePayload b) (t.storePayload b) := by
  refine ⟨by simp only [storePayload_rx_index, h.rx_index, h.rx_cap], fun a => ?_⟩
  rw [read_storePayload b s h.rx_ok, read_storePayload b t h.rx_ok', h.rx_index, h.rx_cap]
  split_ifs
  · exact .inl rfl
  · exact .inr ⟨rfl, rfl⟩

theorem payloadEffect_twins {s t : State} (b : Byte) (h : DecoderTwins s t) :
    (payloadEffect b s).rx_index = (payloadEffect b t).rx_index ∧
      RxWrittenAlike s t (payloadEffect b s) (payloadEffect b t) := by
  simp only [payloadEffect, h.dec_state]
  split
  · split_ifs
    · exact ⟨rfl, fun _ => .inr ⟨rfl, rfl⟩⟩
    · exact ⟨h.rx_index, .refl s t⟩
  · split_ifs
    · exact ⟨h.rx_index, .refl s t⟩
    · exact storePayload_twins b h
  · exact storePayload_twins b h
  all_goals exact ⟨h.rx_index, .refl s t⟩

theorem decodeByte_twins {s t : State} (b : Byte) (h : DecoderTwins s t) :
    DecoderTwins (decodeByte b s).2 (decodeByte b t).2 ∧
      RxWrittenAlike s t (decodeByte b s).2 (decodeByte b t).2 := by
  obtain ⟨hindex, hrx⟩ := payloadEffect_twins b h
  have hdec := (decodeByte_kind_congr b s t h.dec_state h.node_address).2
  refine ⟨⟨hdec, ?_, by simpa using h.rx_cap, by simpa using h.node_address, ?_, ?_⟩, ?_⟩
  · rw [decodeByte_eq_payloadEffect b s, decodeByte_eq_payloadEffect b t]
    exact hindex
  · rw [decodeByte_rx_cap]
    exact decodeByte_bufferOk b s h.rx_ok
  · rw [decodeByte_rx_cap]
    exact decodeByte_bufferOk b t h.rx_ok'
  · rw [decodeByte_eq_payloadEffect b s, decodeByte_eq_payloadEffect b t]
    exact hrx

theorem decodeRun_twins {s t : State} (bs : List Byte) (h : DecoderTwins s t) :
    DecoderTwins (decodeRun bs s).2 (decodeRun bs t).2 ∧
      RxWrittenAlike s t (decodeRun bs s).2 (decodeRun bs t).2 := by
  induction bs generalizing s t with
  | nil => exact ⟨h, .refl s t⟩
  | cons b bs ih =>
    obtain ⟨hstep, hrx⟩ := decodeByte_twins b h
    obtain ⟨hrun, hrx'⟩ := ih hstep
    exact ⟨hrun, hrx.trans hrx'⟩

/-- Settles O23, by induction on the bytes: two twins stay twins. -/
theorem decoderDependsOnFourRegisters : Obligations.DecoderDependsOnFourRegisters := by
  intro bs s t hd hi hc hn hs ht
  obtain ⟨hrun, hrx⟩ := decodeRun_twins bs ⟨hd, hi, hc, hn, hs, ht⟩
  exact ⟨decodeRun_kinds_congr bs s t hd hn, hrun.dec_state, hrun.rx_index, hrx⟩

end Sys2Proof.Machine
end

section
/-! Frames through the decoder byte by byte (O21), and received whole (O29, O32). -/

namespace Sys2Proof.Machine

/-! ## Bytes that complete nothing -/

/-- The bytes take the decoder from `s` to `t`, each of them returning NOOP. -/
def DecodesQuietly (s : State) (bs : List Byte) (t : State) : Prop :=
  decodeRun bs s = (List.replicate bs.length .noop, t)

theorem DecodesQuietly.nil (s : State) : DecodesQuietly s [] s := rfl

theorem DecodesQuietly.single {b : Byte} {s t : State} (h : decodeByte b s = (.noop, t)) :
    DecodesQuietly s [b] t := by
  simp [DecodesQuietly, decodeRun, h]

theorem DecodesQuietly.append {xs ys : List Byte} {s t u : State} (hx : DecodesQuietly s xs t)
    (hy : DecodesQuietly t ys u) : DecodesQuietly s (xs ++ ys) u := by
  unfold DecodesQuietly at *
  rw [decodeRun_append, hx, hy, List.length_append, List.replicate_add]

theorem DecodesQuietly.cons {b : Byte} {bs : List Byte} {s t u : State} (hb : decodeByte b s = (.noop, t))
    (h : DecodesQuietly t bs u) : DecodesQuietly s (b :: bs) u :=
  (DecodesQuietly.single hb).append h

/-- One more byte, whatever its kind. -/
theorem DecodesQuietly.decodeRun_concat {bs : List Byte} {b : Byte} {s t u : State} {k : CommandKind}
    (h : DecodesQuietly s bs t) (hb : decodeByte b t = (k, u)) :
    decodeRun (bs ++ [b]) s = (List.replicate bs.length .noop ++ [k], u) := by
  unfold DecodesQuietly at h
  simp only [decodeRun_append, h, decodeRun, hb]

/-- The session handles such bytes as the decoder does; the result it leaves is not read (log entry 29). -/
theorem DecodesQuietly.receiveBytes_append {xs : List Byte} {s t : State} (h : DecodesQuietly s xs t)
    (ys : List Byte) : receiveBytes (xs ++ ys) s = receiveBytes ys t := by
  induction xs generalizing s with
  | nil => rw [← (Prod.mk.inj h).2]; rfl
  | cons x xs ih =>
    obtain ⟨hkinds, hrun⟩ := Prod.mk.inj h
    obtain ⟨hk, hks⟩ := List.cons.inj hkinds
    have hx : receiveByte x s = (decodeByte x s).2.ret (.kind .noop) :=
      receiveByte_of_decodeByte s (Prod.ext hk rfl) (by decide)
    rw [List.cons_append, receiveBytes_cons_noop _ hx rfl, receiveBytes_ret]
    exact ih (Prod.ext hks hrun)

/-! ## The header and the payload -/

/-- The four header bytes lead to the state the address byte chooses (R142 to R145). -/
theorem decodesQuietly_header (a : Byte) (s : State) (hd : s.dec_state = .scanPreamble1) :
    DecodesQuietly s [Wire.PRE, Wire.PRE, Wire.STX, a] (s.goto (afterAddress s.node_address a)) :=
  .cons (decodeByte_scanPreamble1 Wire.PRE s hd) <|
  .cons (decodeByte_scanPreamble2 Wire.PRE _ rfl) <|
  .cons (decodeByte_scanPreamble3 Wire.STX _ rfl) <|
  .single ((decodeByte_readAddress a _ rfl).trans (inReadAddress_eq _ a))

/-- The bytes of a payload stored one after the other (R141). -/
def State.storeAll (s : State) (payload : List Byte) : State := payload.foldl State.storePayload s

theorem storePayload_goto (b : Byte) (s : State) (d : DecState) :
    (s.goto d).storePayload b = (s.storePayload b).goto d := by
  unfold State.storePayload State.goto
  split_ifs <;> rfl

theorem decodesQuietly_escapeByte_readData (p : Byte) (s : State) (hd : s.dec_state = .readData) :
    DecodesQuietly s (Wire.escapeByte p) (s.storePayload p) := by
  unfold Wire.escapeByte
  split_ifs with hp
  · have hesc : decodeByte Wire.ESC s = (.noop, s.goto .readEscapedData) := decodeByte_readData _ s hd
    have hlit : decodeByte p (s.goto .readEscapedData) = (.noop, s.storePayload p) := by
      have hback : (s.storePayload p).goto .readData = s.storePayload p := State.goto_self (by simp [hd])
      rw [decodeByte_readEscapedData p _ rfl, inReadEscapedData, storePayload_goto]
      exact congrArg (Prod.mk CommandKind.noop) hback
    exact .cons hesc (.single hlit)
  · obtain ⟨hetx, hesc⟩ := not_or.mp hp
    exact .single (by rw [decodeByte_readData p s hd, inReadData, if_neg hesc, if_neg hetx])

/-- An escaped payload for this node is stored, byte by byte (R148, R149). -/
theorem decodesQuietly_escape_readData (payload : List Byte) (s : State) (hd : s.dec_state = .readData) :
    DecodesQuietly s (Wire.escape payload) (s.storeAll payload) := by
  induction payload generalizing s with
  | nil => exact .nil s
  | cons p ps ih =>
    exact (decodesQuietly_escapeByte_readData p s hd).append (ih (s.storePayload p) (by simp [hd]))

theorem decodesQuietly_escapeByte_ignoreData (p : Byte) (s : State) (hd : s.dec_state = .ignoreData) :
    DecodesQuietly s (Wire.escapeByte p) s := by
  have hback : s.goto .ignoreData = s := State.goto_self hd
  unfold Wire.escapeByte
  split_ifs with hp
  · have hesc : decodeByte Wire.ESC s = (.noop, s.goto .ignoreEscapedData) := decodeByte_ignoreData _ s hd
    have hskip : decodeByte p (s.goto .ignoreEscapedData) = (.noop, s.goto .ignoreData) :=
      decodeByte_ignoreEscapedData p _ rfl
    rw [hback] at hskip
    exact .cons hesc (.single hskip)
  · obtain ⟨hetx, hesc⟩ := not_or.mp hp
    exact .single (by rw [decodeByte_ignoreData p s hd, inIgnoreData, if_neg hesc, if_neg hetx, hback])

/-- An escaped payload for another node is skipped (R150, R151). -/
theorem decodesQuietly_escape_ignoreData (payload : List Byte) (s : State) (hd : s.dec_state = .ignoreData) :
    DecodesQuietly s (Wire.escape payload) s := by
  induction payload with
  | nil => exact .nil s
  | cons p ps ih => exact (decodesQuietly_escapeByte_ignoreData p s hd).append ih

/-! ## RX after a payload -/

theorem State.storeAll_concat (s : State) (ps : List Byte) (p : Byte) :
    s.storeAll (ps ++ [p]) = (s.storeAll ps).storePayload p := List.foldl_concat ..

/-- A stored payload writes RX and rx_index and nothing else. -/
theorem storeAll_shape (payload : List Byte) (s : State) :
    s.storeAll payload = { s with rx := (s.storeAll payload).rx, rx_index := (s.storeAll payload).rx_index } := by
  induction payload using List.reverseRecOn with
  | nil => rfl
  | append_singleton ps p ih =>
    rw [State.storeAll_concat, storePayload_shape, ih]

@[simp] theorem storeAll_rx_cap (payload : List Byte) (s : State) : (s.storeAll payload).rx_cap = s.rx_cap := by
  rw [storeAll_shape]

@[simp] theorem storeAll_dec_state (payload : List Byte) (s : State) :
    (s.storeAll payload).dec_state = s.dec_state := by
  rw [storeAll_shape]

theorem storeAll_bufferOk (payload : List Byte) (s : State) (hb : bufferOk s.rx s.rx_cap = true) :
    bufferOk (s.storeAll payload).rx s.rx_cap = true := by
  induction payload using List.reverseRecOn with
  | nil => exact hb
  | append_singleton ps p ih =>
    rw [State.storeAll_concat, ← storeAll_rx_cap ps s]
    exact storePayload_bufferOk p _ (by rwa [storeAll_rx_cap])

/-- From 0 the cursor counts the bytes stored (R155). -/
theorem storeAll_rx_index (payload : List Byte) (s : State) (h0 : s.rx_index = 0) :
    (s.storeAll payload).rx_index = min payload.length s.rx_cap := by
  induction payload using List.reverseRecOn with
  | nil => simp [State.storeAll, h0]
  | append_singleton ps p ih =>
    rw [State.storeAll_concat, storePayload_rx_index, storeAll_rx_cap, ih, List.length_append, List.length_singleton]
    split_ifs <;> omega

/-- From 0 the first bytes of the payload are stored, up to the capacity (R155). -/
theorem read_storeAll (payload : List Byte) (s : State) (h0 : s.rx_index = 0)
    (hb : bufferOk s.rx s.rx_cap = true) (j : Nat) :
    Memory.read (s.storeAll payload).rx j =
      if j < min payload.length s.rx_cap then payload.getD j 0x00#8 else Memory.read s.rx j := by
  induction payload using List.reverseRecOn with
  | nil => simp [State.storeAll]
  | append_singleton ps p ih =>
    have hok : bufferOk (s.storeAll ps).rx (s.storeAll ps).rx_cap = true := by
      rw [storeAll_rx_cap]
      exact storeAll_bufferOk ps s hb
    rw [State.storeAll_concat, read_storePayload p _ hok, ih, storeAll_rx_cap, storeAll_rx_index ps s h0,
      List.length_append, List.length_singleton]
    obtain hlt | rfl | hgt := Nat.lt_trichotomy j ps.length
    · rw [List.getD_append _ _ _ _ hlt, if_neg (by omega)]
      exact if_congr (by omega) rfl rfl
    · have hlast : (ps ++ [p]).getD ps.length 0x00#8 = p := by simp
      have hnew : ¬ ps.length < min ps.length s.rx_cap := by omega
      rw [hlast, if_neg hnew]
      exact if_congr (by omega) rfl rfl
    · rw [if_neg (by omega), if_neg (by omega), if_neg (by omega)]

/-! ## A SET frame for this node -/

/-- The state after a SET frame for this node: the payload stored from cursor 0, the decoder scanning. -/
def State.afterSetFrame (s : State) (payload : List Byte) : State :=
  (((s.setIndex 0).goto .readData).storeAll payload).goto .scanPreamble1

theorem afterSetFrame_eq (payload : List Byte) (s : State) (hd : s.dec_state = .scanPreamble1) :
    s.afterSetFrame payload =
      { s with rx := (s.afterSetFrame payload).rx, rx_index := min payload.length s.rx_cap } := by
  have hindex := storeAll_rx_index payload ((s.setIndex 0).goto .readData) rfl
  rw [State.afterSetFrame, storeAll_shape, hindex, ← hd]
  rfl

theorem read_afterSetFrame (payload : List Byte) (s : State) (hb : bufferOk s.rx s.rx_cap = true) (j : Nat) :
    Memory.read (s.afterSetFrame payload).rx j =
      if j < min payload.length s.rx_cap then payload.getD j 0x00#8 else Memory.read s.rx j :=
  read_storeAll payload ((s.setIndex 0).goto .readData) rfl hb j

/-- The bytes of a SET frame for this node before its ETX (R80). -/
def setFrameOpen (node : Nat) (payload : List Byte) : List Byte :=
  [Wire.PRE, Wire.PRE, Wire.STX, BitVec.ofNat 8 (0x41 + node), Wire.CMD_SET] ++ Wire.escape payload

theorem decodesQuietly_setFrameOpen (payload : List Byte) (s : State) (hd : s.dec_state = .scanPreamble1)
    (hn : s.node_address ≤ 190) :
    DecodesQuietly s (setFrameOpen s.node_address payload) (((s.setIndex 0).goto .readData).storeAll payload) := by
  have hheader := decodesQuietly_header (BitVec.ofNat 8 (0x41 + s.node_address)) s hd
  rw [afterAddress_own _ hn] at hheader
  have hcmd : decodeByte Wire.CMD_SET (s.goto .readCommand) = (.noop, (s.setIndex 0).goto .readData) :=
    decodeByte_readCommand _ _ rfl
  exact hheader.append (.cons hcmd (decodesQuietly_escape_readData payload _ rfl))

/-- The ETX completes the SET (R148). -/
theorem decodeByte_etx_storeAll (payload : List Byte) (s : State) :
    decodeByte Wire.ETX (((s.setIndex 0).goto .readData).storeAll payload) = (.set, s.afterSetFrame payload) :=
  decodeByte_readData _ _ (storeAll_dec_state payload _)

/-- Settles O21: the bytes before the ETX complete nothing and store the payload, by induction on it. -/
theorem setFrameRoundTrip : Obligations.SetFrameRoundTrip := by
  intro payload s hd hn hb bytes r
  have hr : r = (List.replicate (setFrameOpen s.node_address payload).length .noop ++ [.set],
      s.afterSetFrame payload) :=
    (decodesQuietly_setFrameOpen payload s hd hn).decodeRun_concat (decodeByte_etx_storeAll payload s)
  rw [hr]
  exact ⟨by simp [bytes, setFrameOpen], read_afterSetFrame payload s hb, afterSetFrame_eq payload s hd⟩

/-- Settles O29: the session handles the frame's bytes as the decoder does. -/
theorem ownSetFrameReceived : Obligations.OwnSetFrameReceived := by
  intro payload s hd hn hb
  have hetx : receiveByte Wire.ETX (((s.setIndex 0).goto .readData).storeAll payload) =
      (s.afterSetFrame payload).ret (.kind .set) :=
    receiveByte_of_decodeByte _ (decodeByte_etx_storeAll payload s) (by decide)
  have hframe : receiveBytes (setFrameOpen s.node_address payload ++ [Wire.ETX]) s =
      (s.afterSetFrame payload).ret (.kind .set) := by
    rw [(decodesQuietly_setFrameOpen payload s hd hn).receiveBytes_append,
      receiveBytes_cons_completes [] hetx (by simp)]
    rfl
  refine ⟨_, congrArg Host.Outcome.next hframe, read_afterSetFrame payload s hb, ?_⟩
  rw [afterSetFrame_eq payload s hd]
  rfl

/-! ## A frame for another node -/

/-- A foreign address byte (R145). -/
theorem afterAddress_foreign (node : Nat) (a : Byte) (hne : a.toNat ≠ 0x41 + node) (ha : 0x41 ≤ a.toNat) :
    afterAddress node a = .ignoreCommand := by
  rw [afterAddress, if_neg hne, if_pos ha]

/-- A foreign frame is decoded without a trace, to its ETX (R147, R150, R151). -/
theorem decodesQuietly_foreignFrame (a cmd : Byte) (payload : List Byte) (s : State)
    (hd : s.dec_state = .scanPreamble1) (ha : 0x41 ≤ a.toNat) (hne : a.toNat ≠ 0x41 + s.node_address) :
    DecodesQuietly s (Wire.frameBytes a cmd payload) s := by
  have hheader := decodesQuietly_header a s hd
  rw [afterAddress_foreign _ a hne ha] at hheader
  have hcmd : decodeByte cmd (s.goto .ignoreCommand) = (.noop, s.goto .ignoreData) :=
    decodeByte_ignoreCommand cmd _ rfl
  have hetx : decodeByte Wire.ETX (s.goto .ignoreData) = (.noop, s) :=
    (decodeByte_ignoreData _ _ rfl).trans (congrArg (Prod.mk CommandKind.noop) (State.goto_self hd))
  exact (hheader.append (.cons hcmd (decodesQuietly_escape_ignoreData payload _ rfl))).append (.single hetx)

/-- Settles O32: a frame decoded without a trace is received without one. -/
theorem foreignFrameLeavesNoTrace : Obligations.ForeignFrameLeavesNoTrace := by
  intro a c payload s hd ha hne
  have hframe := (decodesQuietly_foreignFrame a (Wire.cmdByte c) payload s hd ha hne).receiveBytes_append []
  rw [List.append_nil] at hframe
  exact congrArg Host.Outcome.next hframe

end Sys2Proof.Machine
end

section
/-! The encoder's one frame (O34), and what a step writes to the output (O41). -/

namespace Sys2Proof.Machine

/-! ## The response of ENCODE -/

/-- TX is sent in its whole capacity, escaped, inside a frame (R180, R181). -/
theorem length_responseOf (s : State) :
    (responseOf s).length = 6 + s.tx_cap +
      (List.range s.tx_cap).countP
        (fun i => Memory.read s.tx i = Wire.ETX ∨ Memory.read s.tx i = Wire.ESC) := by
  rw [responseOf_eq_frameBytes, length_frameBytes, length_escape, Memory.bytes, List.length_map,
    List.length_range, List.countP_map, Nat.add_assoc]
  rfl

/-- The address character of a node in R23's range fits its byte (R81). -/
theorem toNat_addrByte (node : Nat) (h : node ≤ 190) : (Wire.addrByte node).toNat = 0x41 + node :=
  Nat.mod_eq_of_lt (show 0x41 + node < 2 ^ 8 by omega)

/-- ENCODE appends the response, sends it, and returns nothing (R180, R182). -/
theorem exec_encode (s : State) :
    exec .encode s = .next { s with
      out_stream := s.out_stream ++ responseOf s
      flushed := (s.out_stream ++ responseOf s).length
      result := .none } := by
  have hret : exec .encode s = .next ((encodeResponse s).ret .none) := rfl
  rw [hret, encodeResponse_eq, responseOf_eq_frameBytes]
  rfl

/-- Settles O34: what ENCODE does, the length of its frame, and the address byte in it. -/
theorem encodeAppendsOneFrame : Obligations.EncodeAppendsOneFrame := fun s hn =>
  ⟨exec_encode s, length_responseOf s, toNat_addrByte s.node_address hn⟩

/-! ## Who writes the output -/

/-- A step from `s` to `t` wrote no output and reported none sent. -/
def OutputKept (s t : State) : Prop := t.out_stream = s.out_stream ∧ t.flushed = s.flushed

/-- The byte that completes a POLL was read: the call is over, the response of `s` written and sent
(R184, R191, R192). -/
def PollAnswered (s t : State) : Prop :=
  s.dec_state = .readCommand ∧ t.result = .kind .poll ∧ t.proc_active = false ∧
    t.out_stream = s.out_stream ++ responseOf s ∧ t.flushed = t.out_stream.length

/-- An iteration of PROCESS writes output only to answer a POLL (R190). -/
theorem processIteration_output (s : State) :
    OutputKept s (processIteration s) ∨ PollAnswered s (processIteration s) := by
  obtain ⟨_, _, _, _, o, f, v, k, he, -, -, hout⟩ := processIteration_shape s
  rw [he]
  rcases hout with ⟨ho, hf, -⟩ | ⟨hd, hk, hv, ho, hf⟩
  · exact .inl ⟨ho, hf⟩
  · exact .inr ⟨hd, congrArg Result.kind hk, hv, ho, hf⟩

/-- Of the host's operations only PROCESS may write output (R185). -/
theorem HostEffect.output {s t : State} {op : OpName} (he : HostEffect s op t) :
    OutputKept s t ∨ op = .process ∧ PollAnswered s t := by
  cases he with
  | process => exact (processIteration_output (s.setActive true)).imp_right fun h => ⟨rfl, h⟩
  | reset | setAddress | resize | read | write => exact .inl ⟨rfl, rfl⟩

/-- Settles O41, by what drives the step: an iteration of PROCESS, in progress or begun by the host, is the
only one that may write. -/
theorem outputOnlyAnswersPoll : Obligations.OutputOnlyAnswersPoll := by
  intro s t hstep
  rcases step_cases s t hstep with ⟨ha, rfl⟩ | ⟨-, -, rfl⟩ | ⟨bytes, later, -, -, rfl⟩ |
    ⟨r, later, i, ha, hs, hi, hint, hexec⟩
  · exact (processIteration_output s).imp_right fun hpoll => ⟨.inl ha, hpoll⟩
  · exact .inl ⟨rfl, rfl⟩
  · exact .inl ⟨rfl, rfl⟩
  · refine (hostEffect_of_exec r i _ t hi hint hexec).output.imp_right fun ⟨hop, hpoll⟩ => ?_
    have hcalled : Called s [.process] := ⟨ha, r, later, hs, by simp [hop]⟩
    exact ⟨.inr hcalled, hpoll⟩

end Sys2Proof.Machine
end

section
/-! The iteration of PROCESS: with nothing available (O35), and with the oldest byte (O36, O37). -/

namespace Sys2Proof.Machine

/-! ## A step of a PROCESS in progress, by what its availability check finds -/

/-- The call is a PROCESS in progress, and its first iteration is that call's step (R190, log entry 1). -/
theorem exec_process (s : State) : exec .process s = step (s.setActive true) :=
  (step_active _ rfl).symm

/-- The transport's schedule does not depend on whether a PROCESS is in progress. -/
theorem advance_setActive (s : State) (v : Bool) : (s.setActive v).advance = s.advance.setActive v := by
  cases h : s.arrivals <;> simp [State.advance, State.setActive, h]

section iteration
variable {s : State} {b : Byte} {left : List Byte}

/-- With nothing available the call returns NOOP, and only the schedule has moved on (R194). -/
theorem step_returns_empty (ha : s.proc_active = true) (hin : s.in_stream ++ s.delivery = []) :
    step s = .next { s with
      arrivals := s.arrivals.tail, supply := s.advance.supply, proc_active := false, result := .kind .noop } := by
  have hnil : s.in_stream = [] := (List.append_eq_nil_iff.mp hin).1
  rw [step_active s ha, processIteration, arrive_eq, hin, ← hnil]
  simp only [hnil]
  rfl

/-- A byte that completes nothing leaves the call in progress (R190). -/
theorem step_goes_on (ha : s.proc_active = true) (hin : s.in_stream ++ s.delivery = b :: left)
    (hk : (decodeByte b (s.advance.setInput left)).1 = .noop) :
    step s = .next (receiveByte b (s.advance.setInput left)) := by
  rw [step_takes_byte s b left ha hin]
  exact congrArg Host.Outcome.next (endIteration_noop _ (congrArg Result.kind hk))

/-- The byte that completes a frame ends the call (R191). -/
theorem step_returns_completed (ha : s.proc_active = true) (hin : s.in_stream ++ s.delivery = b :: left)
    (hk : (decodeByte b (s.advance.setInput left)).1 ≠ .noop) :
    step s = .next ((receiveByte b (s.advance.setInput left)).setActive false) := by
  rw [step_takes_byte s b left ha hin]
  exact congrArg Host.Outcome.next (endIteration_other _ (mt Result.kind.inj hk))

end iteration

/-- Settles O35: the one availability check finds nothing. -/
theorem processOnEmptyInputChangesNothing : Obligations.ProcessOnEmptyInputChangesNothing := by
  intro s hin hdel hidle
  have hnone : (s.setActive true).in_stream ++ (s.setActive true).delivery = [] :=
    List.append_eq_nil_iff.mpr ⟨hin, hdel⟩
  rw [exec_process, step_returns_empty rfl hnone, advance_setActive, ← hidle]
  rfl

/-! ## One byte taken -/

/-- The response is made of the address and TX, which neither the transport nor the reading of input touches. -/
theorem responseOf_setInput_advance (s : State) (left : List Byte) :
    responseOf (s.advance.setInput left) = responseOf s := by
  simp [responseOf]

/-- A byte that completes a POLL: the decoder step, and the response of the state it is received in (R192). -/
theorem receiveByte_poll_eq {b : Byte} {s : State} (h : (decodeByte b s).1 = .poll) :
    receiveByte b s = { (decodeByte b s).2.ret (.kind (decodeByte b s).1) with
      out_stream := s.out_stream ++ responseOf s
      flushed := (s.out_stream ++ responseOf s).length } := by
  rw [receiveByte_poll b s h, encodeResponse_eq, responseOf_eq_frameBytes, h]
  simp [State.ret]

/-- A steady supply delivers the same at every iteration and is as it was after it. -/
theorem State.advance_steady {s : State} {bytes : List Byte} (hnil : s.arrivals = [])
    (hsup : s.supply = .steady bytes) : s.delivery = bytes ∧ s.advance = s := by
  obtain ⟨hdel, hadv⟩ := s.delivery_nil hnil
  rw [hsup] at hdel hadv
  rw [hadv, Supply.after, ← hsup]
  exact ⟨hdel, rfl⟩

/-- A free supply delivers its next value. -/
theorem State.advance_unknown {s : State} {k : Nat} (hnil : s.arrivals = []) (hsup : s.supply = .unknown k) :
    s.delivery = Config.delivery k ∧ s.advance = { s with supply := .unknown (k + 1) } := by
  have h := s.delivery_nil hnil
  rwa [hsup] at h

/-- Settles O36, by the kind the oldest byte's decoder step returns. -/
theorem processTakesOneByte : Obligations.ProcessTakesOneByte := by
  refine ⟨fun s => ⟨s.delivery_cons, s.advance_silent, fun _ => State.advance_steady,
    fun _ => State.advance_unknown⟩, fun s b left hin => ?_⟩
  have hcall : (s.setActive true).proc_active = true := rfl
  have hin' : (s.setActive true).in_stream ++ (s.setActive true).delivery = b :: left := hin
  have hread : (s.setActive true).advance.setInput left =
      { s.advance with proc_active := true, in_stream := left } := by
    rw [advance_setActive]; rfl
  have hresp : responseOf ((s.setActive true).advance.setInput left) = responseOf s :=
    responseOf_setInput_advance (s.setActive true) left
  have hout : ((s.setActive true).advance.setInput left).out_stream = s.out_stream := by simp
  have goesOn := step_goes_on hcall hin'
  have completed := step_returns_completed hcall hin'
  rw [exec_process, ← hread]
  generalize (s.setActive true).advance.setInput left = u at hresp hout goesOn completed ⊢
  refine ⟨(decodeByte b u).2.ret (.kind (decodeByte b u).1), rfl, fun hk => ?_, fun hk => ?_, fun hk => ?_, ?_⟩
  · have hnoop : (decodeByte b u).1 = .noop := Result.kind.inj hk
    rw [goesOn hnoop, receiveByte_not_poll b u (by simp [hnoop])]
  · have hset : (decodeByte b u).1 = .set := Result.kind.inj hk
    rw [completed (by simp [hset]), receiveByte_not_poll b u (by simp [hset])]
    rfl
  · have hpoll : (decodeByte b u).1 = .poll := Result.kind.inj hk
    rw [completed (by simp [hpoll]), receiveByte_poll_eq hpoll, hresp, hout]
    rfl
  · simpa using decodeByte_kind b u

/-- Settles O37: the two bytes that complete a frame in their places (R148, R146), each of which ends the
iteration and the call. -/
theorem stopRuleLeavesLaterBytes : Obligations.StopRuleLeavesLaterBytes := by
  intro s left hact
  refine ⟨fun hd hin => ?_, fun hd hin => ?_⟩
  · rw [step_takes_byte s _ left hact hin, receiveByte_etx_readData _ (by simpa using hd)]
    rfl
  · have hresp : responseOf { s.advance with in_stream := left } = responseOf s :=
      responseOf_setInput_advance s left
    rw [step_takes_byte s _ left hact hin, receiveByte_poll_readCommand _ (by simpa using hd), hresp,
      State.advance_out_stream]
    rfl

end Sys2Proof.Machine
end

section
/-! The end of a PROCESS: with a silent transport (O38), and whatever arrives (O40). -/

namespace Sys2Proof.Machine

/-! ## The loop run to its end on the bytes available -/

section available
variable {b : Byte} {left : List Byte} {s : State}

theorem processAvailable_cons_noop (h : (decodeByte b (s.setInput left)).1 = .noop) :
    processAvailable (b :: left) s = processAvailable left (receiveByte b (s.setInput left)) := by
  simp [processAvailable, h]

theorem processAvailable_cons_completed (h : (decodeByte b (s.setInput left)).1 ≠ .noop) :
    processAvailable (b :: left) s = (receiveByte b (s.setInput left)).setActive false := by
  simp [processAvailable, h]

end available

/-- The loop ends with the call returned, with no byte left if it returns NOOP, and what it read is a beginning
of the bytes available (R190, R197). -/
theorem processAvailable_returned (bs : List Byte) (s : State) :
    (processAvailable bs s).proc_active = false ∧
      ((processAvailable bs s).result = .kind .noop → (processAvailable bs s).in_stream = []) ∧
      (processAvailable bs s).in_stream <:+ bs := by
  induction bs generalizing s with
  | nil => exact ⟨rfl, fun _ => rfl, List.suffix_rfl⟩
  | cons b left ih =>
    by_cases hk : (decodeByte b (s.setInput left)).1 = .noop
    · rw [processAvailable_cons_noop hk]
      obtain ⟨hact, hnoop, hsuffix⟩ := ih (receiveByte b (s.setInput left))
      exact ⟨hact, hnoop, hsuffix.trans (List.suffix_cons b left)⟩
    · rw [processAvailable_cons_completed hk]
      exact ⟨rfl, fun hres => absurd (Result.kind.inj hres) hk, by simp⟩

/-- With a silent transport the steps of the machine are the loop's iterations: one per byte read, and one more
if the input runs out. -/
theorem run_processAvailable (bs : List Byte) (s : State) (hact : s.proc_active = true) (hin : s.in_stream = bs)
    (harr : s.arrivals = []) (hsup : s.supply = .silent) :
    ∃ n ≤ bs.length + 1, (Host.Core.run Sys2Proof.core n s : Answer) = .next (processAvailable bs s) := by
  induction bs generalizing s with
  | nil =>
    obtain ⟨hdel, hadv⟩ := s.advance_silent harr hsup
    have hstep : step s = .next (processAvailable [] s) := by
      rw [step_returns_empty hact (by rw [hin, hdel, List.append_nil]), hadv, harr, List.tail_nil, ← harr,
        processAvailable, ← hin]
      rfl
    exact ⟨1, le_rfl, run_succ 0 s _ hstep⟩
  | cons b left ih =>
    obtain ⟨hdel, hadv⟩ := s.advance_silent harr hsup
    have hchk : s.in_stream ++ s.delivery = b :: left := by rw [hin, hdel, List.append_nil]
    by_cases hk : (decodeByte b (s.setInput left)).1 = .noop
    · have hstep : step s = .next (receiveByte b (s.setInput left)) := by
        rw [step_goes_on hact hchk (by rwa [hadv]), hadv]
      obtain ⟨n, hn, hrun⟩ := ih (receiveByte b (s.setInput left)) (by simpa using hact) (by simp)
        (by simpa using harr) (by simpa using hsup)
      refine ⟨n + 1, Nat.succ_le_succ hn, ?_⟩
      rw [run_succ n s _ hstep, hrun, processAvailable_cons_noop hk]
    · have hstep : step s = .next ((receiveByte b (s.setInput left)).setActive false) := by
        rw [step_returns_completed hact hchk (by rwa [hadv]), hadv]
      refine ⟨1, by simp, ?_⟩
      rw [run_succ 0 s _ hstep, processAvailable_cons_completed hk]
      rfl

/-- Settles O38: the steps run the loop to its end. -/
theorem processReturnsWithinItsInput : Obligations.ProcessReturnsWithinItsInput := by
  intro s hact harr hsup
  obtain ⟨n, hn, hrun⟩ := run_processAvailable s.in_stream s hact rfl harr hsup
  obtain ⟨hend, hnoop, read, hread⟩ := processAvailable_returned s.in_stream s
  exact ⟨n, _, hn, hrun, hend, rfl, hnoop, read, hread.symm⟩

/-! ## Whatever the transport delivers -/

/-- A PROCESS is in progress now and after each of the next n steps. -/
def InProgress (n : Nat) (s : State) : Prop :=
  ∀ k ≤ n, ∃ t, (Host.Core.run Sys2Proof.core k s : Answer) = .next t ∧ t.proc_active = true

theorem InProgress.active {n : Nat} {s : State} (h : InProgress n s) : s.proc_active = true := by
  obtain ⟨_, hrun, hact⟩ := h 0 n.zero_le
  exact Host.Outcome.next.inj hrun ▸ hact

theorem inProgress_succ {n : Nat} {s t : State} (ha : s.proc_active = true) (hstep : step s = .next t) :
    InProgress (n + 1) s ↔ InProgress n t := by
  refine ⟨fun h k hk => ?_, fun h k hk => ?_⟩
  · rw [← run_succ k s t hstep]
    exact h (k + 1) (Nat.succ_le_succ hk)
  · cases k with
    | zero => exact ⟨s, rfl, ha⟩
    | succ k =>
      rw [run_succ k s t hstep]
      exact h k (Nat.le_of_succ_le_succ hk)

/-- The bytes waiting with those that arrive in the next n iterations, oldest first. -/
def State.inputOver (n : Nat) (s : State) : List Byte := s.in_stream ++ (State.deliveries n s).flatten

/-- Each of the next n availability checks finds a byte, and none of the n bytes completes a frame. -/
def ReadsOn (n : Nat) (s : State) : Prop :=
  (∀ k < n, k < (s.inputOver (k + 1)).length) ∧ ∀ k ∈ (decodeRun ((s.inputOver n).take n) s).1, k = .noop

theorem not_readsOn_of_empty {n : Nat} {s : State} (hin : s.in_stream ++ s.delivery = []) :
    ¬ReadsOn (n + 1) s := by
  intro h
  have hfirst := h.1 0 n.succ_pos
  simp [State.inputOver, State.deliveries, hin] at hfirst

@[simp] theorem receiveByte_dec_state (b : Byte) (s : State) :
    (receiveByte b s).dec_state = (decodeByte b s).2.dec_state := by
  by_cases h : (decodeByte b s).1 = .poll
  · rw [receiveByte_poll_eq h]; rfl
  · rw [receiveByte_not_poll b s h]; rfl

@[simp] theorem receiveByte_node_address (b : Byte) (s : State) :
    (receiveByte b s).node_address = s.node_address := by
  obtain ⟨d, n, m, o, f, h, -⟩ := receiveByte_shape b s; rw [h]

section reading
variable {s : State} {b : Byte} {left : List Byte}

/-- After the byte read, the input goes on as it was and the schedule from its next delivery. -/
theorem inputOver_succ (n : Nat) (hin : s.in_stream ++ s.delivery = b :: left) :
    s.inputOver (n + 1) = b :: (receiveByte b (s.advance.setInput left)).inputOver n := by
  have hsched : State.deliveries n (receiveByte b (s.advance.setInput left)) = State.deliveries n s.advance :=
    State.deliveries_congr n _ _ (by simp) (by simp)
  simp only [State.inputOver, State.deliveries, List.flatten_cons, hsched, receiveByte_in_stream,
    State.setInput_in_stream]
  rw [← List.append_assoc, hin, List.cons_append]

theorem readsOn_succ (n : Nat) (hin : s.in_stream ++ s.delivery = b :: left) :
    ReadsOn (n + 1) s ↔
      (decodeByte b s).1 = .noop ∧ ReadsOn n (receiveByte b (s.advance.setInput left)) := by
  obtain ⟨-, hd⟩ := decodeByte_kind_congr b s (s.advance.setInput left) (by simp) (by simp)
  have hkinds (bs : List Byte) : (decodeRun bs (decodeByte b s).2).1 =
      (decodeRun bs (receiveByte b (s.advance.setInput left))).1 :=
    decodeRun_kinds_congr bs _ _ (by simpa using hd) (by simp)
  simp only [ReadsOn, inputOver_succ _ hin, List.take_succ_cons, decodeRun, hkinds, List.forall_mem_cons,
    Nat.forall_lt_succ_left, List.length_cons, Nat.succ_pos, Nat.succ_lt_succ_iff, true_and]
  exact and_left_comm

end reading

theorem inProgress_zero {s : State} (ha : s.proc_active = true) : InProgress 0 s := by
  intro k hk
  obtain rfl := Nat.le_zero.mp hk
  exact ⟨s, rfl, ha⟩

theorem readsOn_zero (s : State) : ReadsOn 0 s :=
  ⟨fun k hk => absurd hk k.not_lt_zero, fun _ hk => absurd hk List.not_mem_nil⟩

/-- The call is in progress exactly as long as it reads on (R197). -/
theorem inProgress_iff_readsOn (n : Nat) (s : State) (ha : s.proc_active = true) :
    InProgress n s ↔ ReadsOn n s := by
  induction n generalizing s with
  | zero => exact iff_of_true (inProgress_zero ha) (readsOn_zero s)
  | succ n ih =>
    cases hin : s.in_stream ++ s.delivery with
    | nil =>
      rw [inProgress_succ ha (step_returns_empty ha hin)]
      exact iff_of_false (fun h => absurd h.active (by simp)) (not_readsOn_of_empty hin)
    | cons b left =>
      have hkind := (decodeByte_kind_congr b s (s.advance.setInput left) (by simp) (by simp)).1
      rw [readsOn_succ n hin, hkind]
      by_cases hk : (decodeByte b (s.advance.setInput left)).1 = .noop
      · rw [inProgress_succ ha (step_goes_on ha hin hk), ih _ (by simpa using ha), and_iff_right hk]
      · rw [inProgress_succ ha (step_returns_completed ha hin hk)]
        exact iff_of_false (fun h => absurd h.active (by simp)) (fun h => hk h.1)

/-- Settles O40, by induction on the steps. -/
theorem processReturnsExactlyWhen : Obligations.ProcessReturnsExactlyWhen := inProgress_iff_readsOn

end Sys2Proof.Machine
end

section
/-! The step as the decoded instruction run (O42). -/

namespace Sys2Proof.Machine

/-- A byte received is the wire row it decodes to run, whatever its place (log entries 10, 13). -/
theorem exec_decodeWireByte (b : Byte) (s : State) : exec (decodeWireByte b) s = .next (receiveByte b s) := by
  unfold decodeWireByte
  split_ifs with hpre hstx hetx hesc hinit hset hget hpoll haddr
  case neg => exact congrArg Host.Outcome.next (receiveByte_of_no_poll_in_place b s fun h => hpoll h.2).symm
  all_goals (subst_vars; rfl)

/-- ENCODE does not read the result it finds (log entry 4). -/
theorem encodeResponse_ret (s : State) (v : Result) : encodeResponse (s.ret v) = (encodeResponse s).ret v := by
  simp only [encodeResponse_eq]
  rfl

/-- A byte received is the row of the decode table it selects, and the response after a POLL (R152, R192). -/
theorem exec_decodeCell (b : Byte) (s : State) :
    ∃ t, exec (decodeCell s.node_address s.dec_state b) s = .next t ∧
      receiveByte b s = if t.result = .kind .poll then encodeResponse t else t := by
  refine ⟨(decodeByte b s).2.ret (.kind (decodeByte b s).1), (decodeStepTakesSelectedRow b s).symm, ?_⟩
  simp only [receiveByte, encodeResponse_ret, State.ret_result, Result.kind.injEq]
  split_ifs <;> rfl

/-- A table word that decodes has a first byte, and is read as the wire row of that byte (log entry 13). -/
theorem decodeTableWord_eq_some {nbits w : Nat} {i : Instr} (h : decodeTableWord nbits w = some i) :
    ∃ b rest, wordBytes nbits w = b :: rest ∧ i = decodeWireByte b := by
  unfold decodeTableWord at h
  cases hw : wordBytes nbits w with
  | nil => simp [hw, decodeBytes] at h
  | cons b rest => exact ⟨b, rest, rfl, by simpa [hw, decodeBytes] using h.symm⟩

/-- A step of a PROCESS in progress, by the byte found once the transport has moved. -/
theorem step_takes_arrived {s : State} {b : Byte} {left : List Byte} (ha : s.proc_active = true)
    (hin : s.arrive.in_stream = b :: left) :
    step s = .next (endIteration (receiveByte b (s.arrive.setInput left))) := by
  rw [arrive_eq] at hin
  exact step_takes_byte s b left ha hin

/-- Settles O42: the request of the script, the byte read as its wire row and as its row of the decode table,
and the byte of a placed word. -/
theorem stepRunsDecodedInstruction : Obligations.StepRunsDecodedInstruction := by
  refine ⟨fun s r i later ha hs hi hint => step_call s r later i ha hs hint hi,
    fun s b left ha hin => ⟨⟨_, exec_decodeWireByte b _, step_takes_arrived ha hin⟩, ?_⟩,
    fun s nbits w i hi => ?_⟩
  · obtain ⟨t, hrow, hbyte⟩ := exec_decodeCell b (s.arrive.setInput left)
    have hcell : decodeCell (s.arrive.setInput left).node_address (s.arrive.setInput left).dec_state b =
        decodeCell s.node_address s.dec_state b := by
      rw [arrive_eq]; rfl
    exact ⟨t, hcell ▸ hrow, hbyte ▸ step_takes_arrived ha hin⟩
  · obtain ⟨b, rest, hword, rfl⟩ := decodeTableWord_eq_some hi
    have hin : (s.withFetchWord nbits w).arrive.in_stream =
        b :: (rest ++ s.in_stream ++ (s.withFetchWord nbits w).delivery) := by
      rw [arrive_eq]
      simp [State.withFetchWord, placeWord, hword]
    exact ⟨b, _, _, hin, exec_decodeWireByte b _, step_takes_arrived rfl hin⟩

end Sys2Proof.Machine
end

section
/-! The rows that do not apply (O17). -/

namespace Sys2Proof.Machine

/-- A row that applies only where it is the selected one `j` changes nothing elsewhere (R214). -/
theorem takeRow_skips {st dest : DecState} {selected : Bool} {action : State → State} {k : CommandKind}
    {s : State} {i j : Instr} (hne : i ≠ j) (hsel : s.dec_state = st → selected = true → i = j) :
    takeRow st selected action dest k s = .next s :=
  if_neg fun happlies => hne (hsel happlies.1 happlies.2)

/-- Settles O17, a row at a time: where a row's state and class test hold, it is the row of the cell. -/
theorem otherRowsChangeNothing : Obligations.OtherRowsChangeNothing := by
  intro i n st b s _ henc hne
  cases i with
  | decSp1Ff | decSp2Ff | decSp3Stx | decRcPoll | decIcAny | decRdEsc | decRdEtx | decReAny | decIdEsc
  | decIdEtx | decIeAny =>
    cases henc
    exact takeRow_skips hne fun hd _ => by rw [hd]; rfl
  | decRcSet =>
    cases henc
    exact takeRow_skips (action := fun s => s.setIndex 0) hne fun hd _ => by rw [hd]; rfl
  | decSp1Any | decSp2Any | decSp3Any | decRaMatch | decRaForeign | decRaAny | decRcAny | decRdAny | decIdAny =>
    cases henc
    exact takeRow_skips hne fun hd hclass => by simp_all [decodeCell]
  | _ => cases henc

end Sys2Proof.Machine
end

section
/-! The error classes of a byte (O24). -/

namespace Sys2Proof.Machine

/-- A full buffer takes no payload byte (R141). -/
theorem storePayload_full {b : Byte} {s : State} (h : s.payloadFull = true) : s.storePayload b = s :=
  if_neg (Nat.not_lt_of_le (of_decide_eq_true h))

/-- Where a byte of an error class takes the decoder; an accessor's class takes it nowhere (R210). -/
def afterError : ErrorClass → Option DecState
  | .noise => some .scanPreamble1
  | .foreign => some .ignoreCommand
  | .overlong => some .readData
  | .oob => none

/-- A byte of an error class completes nothing, and moves the decoder and does nothing else (R210, R211). -/
theorem decodeByte_of_errorClass {b : Byte} {s : State} {e : ErrorClass} (h : decodeErrorClass b s = some e) :
    ∃ d, afterError e = some d ∧ decodeByte b s = (.noop, s.goto d) := by
  unfold decodeErrorClass at h
  cases hd : s.dec_state <;> simp only [hd] at h
  case scanPreamble2 =>
    split_ifs at h with hb
    cases h
    exact ⟨_, rfl, by rw [decodeByte_scanPreamble2 b s hd, inScanPreamble2, if_neg hb]⟩
  case scanPreamble3 =>
    split_ifs at h with hb
    cases h
    exact ⟨_, rfl, by rw [decodeByte_scanPreamble3 b s hd, inScanPreamble3, if_neg hb]⟩
  case readAddress =>
    rw [decodeByte_readAddress b s hd, inReadAddress]
    split_ifs at h ⊢ <;> cases h <;> exact ⟨_, rfl, rfl⟩
  case readCommand =>
    split_ifs at h with hb
    cases h
    obtain ⟨hset, hpoll⟩ := not_or.mp hb
    exact ⟨_, rfl, by rw [decodeByte_readCommand b s hd, inReadCommand, if_neg hset, if_neg hpoll]⟩
  case readData =>
    split_ifs at h with hb hfull
    cases h
    obtain ⟨hesc, hetx⟩ := not_or.mp hb
    exact ⟨_, rfl, by rw [decodeByte_readData b s hd, inReadData, if_neg hesc, if_neg hetx,
      storePayload_full hfull, State.goto_self hd]⟩
  case readEscapedData =>
    split_ifs at h with hfull
    cases h
    exact ⟨_, rfl, by rw [decodeByte_readEscapedData b s hd, inReadEscapedData, storePayload_full hfull]⟩
  all_goals cases h

/-- The same as an instruction, with the kind returned (R140). -/
theorem exec_decodeStep_of_errorClass {b : Byte} {s : State} {e : ErrorClass} {d : DecState}
    (h : decodeErrorClass b s = some e) (hd : afterError e = some d) :
    exec (.decodeStep b) s = .next { s with dec_state := d, result := .kind .noop } := by
  obtain ⟨d', hd', hbyte⟩ := decodeByte_of_errorClass h
  obtain rfl := Option.some.inj (hd'.symm.trans hd)
  simp only [exec, execDecodeStep, hbyte]
  rfl

/-- Settles O24, a class at a time. -/
theorem errorClassesAreAbsorbed : Obligations.ErrorClassesAreAbsorbed := by
  intro b s
  refine ⟨fun h => exec_decodeStep_of_errorClass h rfl, fun h => exec_decodeStep_of_errorClass h rfl,
    fun h => exec_decodeStep_of_errorClass h rfl, fun h => ?_⟩
  obtain ⟨d, hd, -⟩ := decodeByte_of_errorClass h
  cases hd

end Sys2Proof.Machine
end

section
/-! The refusals (O55), and the operations closed to the host (O44). -/

namespace Sys2Proof.Machine

/-- A row of the decode table is refused nowhere. -/
theorem takeRow_answers {st dest : DecState} {selected : Bool} {action : State → State} {k : CommandKind}
    {s : State} : ∃ t, takeRow st selected action dest k s = .next t := by
  unfold takeRow
  split_ifs <;> exact ⟨_, rfl⟩

/-- The operations that have a refusal (R219). -/
def mayBeRefused : Instr → Bool
  | .reset .. | .setAddress _ | .resize .. => true
  | _ => false

/-- Every other instruction answers a next state. -/
theorem exec_answers {i : Instr} (s : State) (hi : mayBeRefused i = false) : ∃ t, exec i s = .next t := by
  cases i with
  | reset | setAddress | resize => cases hi
  | decSp1Ff | decSp1Any | decSp2Ff | decSp2Any | decSp3Stx | decSp3Any | decRaMatch | decRaForeign | decRaAny
  | decRcPoll | decRcAny | decIcAny | decRdEsc | decRdEtx | decRdAny | decReAny | decIdEsc | decIdEtx
  | decIdAny | decIeAny => exact takeRow_answers
  | decRcSet => exact takeRow_answers (action := fun s => s.setIndex 0)
  | setBit pos value =>
    obtain ⟨m, -, h⟩ := exec_setBit s pos value
    exact ⟨_, h⟩
  | setByte pos value =>
    obtain ⟨m, -, h⟩ := exec_setByte s pos value
    exact ⟨_, h⟩
  | _ => exact ⟨_, rfl⟩

section refusals
variable (s : State) (r : Refusal)

theorem exec_ne_refused {i : Instr} (hi : mayBeRefused i = false) : exec i s ≠ .refused r := by
  obtain ⟨t, ht⟩ := exec_answers s hi
  simp [ht]

theorem exec_setAddress_refused_iff (addr : Nat) :
    exec (.setAddress addr) s = .refused r ↔ r = .addressOutOfRange ∧ Wire.NODE_MAX < addr := by
  simp only [exec, execSetAddress]
  split_ifs with ha <;> simp [ha, eq_comm]

theorem exec_resize_refused_iff (inputBits outputBits : Nat) :
    exec (.resize inputBits outputBits) s = .refused r ↔
      r = .capacityTooLarge ∧ ¬capacitiesFit inputBits outputBits s = true := by
  simp only [exec, execResize]
  split_ifs with hfit <;> simp [hfit, eq_comm]

/-- The address is tested first (R240). -/
theorem exec_reset_refused_iff (addr inputBits outputBits : Nat) :
    exec (.reset addr inputBits outputBits) s = .refused r ↔
      (r = .addressOutOfRange ∧ Wire.NODE_MAX < addr) ∨
      (r = .capacityTooLarge ∧ addr ≤ Wire.NODE_MAX ∧ ¬capacitiesFit inputBits outputBits s = true) := by
  simp only [exec, execReset]
  split_ifs with ha hfit
  · simp [ha, Nat.not_le_of_lt ha, eq_comm (b := r)]
  · simp [ha, hfit]
  · simp [ha, hfit, Nat.le_of_not_lt ha, eq_comm]

end refusals

/-- Settles O55: three operations have refusals, and every other instruction answers. -/
theorem refusalsAreExactlyTheListed : Obligations.RefusalsAreExactlyTheListed := by
  intro i s r
  cases i with
  | reset a x y =>
    rw [exec_reset_refused_iff, capacitiesFit_iff]
    simp [capOf]
  | setAddress a =>
    rw [exec_setAddress_refused_iff]
    simp
  | resize x y =>
    rw [exec_resize_refused_iff, capacitiesFit_iff]
    simp [capOf]
  | _ => exact iff_of_false (exec_ne_refused s r rfl) (by simp)

/-- A scripted request for an internal operation is refused by name, whatever its operands (R220, D18). -/
theorem step_call_internal {s : State} {r : Request} {later : List Move} (ha : s.proc_active = false)
    (hs : s.script = .call r :: later) (hint : r.op.isInternal = true) :
    step s = .refused (.internalOperation r.op) := by
  simp [step, takeScript, takeMove, issue, ha, hs, hint]

/-- Settles O44: the two operations named are the internal ones. -/
theorem internalOperationsClosedToHost : Obligations.InternalOperationsClosedToHost := by
  intro s r later ha hs hop
  have hint : r.op.isInternal = true := by
    rcases hop with hop | hop <;> rw [hop] <;> rfl
  exact step_call_internal ha hs hint

end Sys2Proof.Machine
end

section
/-! Hazards inside a payload: a terminator that never comes (O20), and a resize (O52). -/

namespace Sys2Proof.Machine

/-! ## A payload without an unshielded terminator -/

/-- The decoder's states inside a payload, by whose it is and whether the byte before was an ESC (R148 to
R151). -/
def payloadState (own shielded : Bool) : DecState :=
  match own, shielded with
  | true, false => .readData
  | true, true => .readEscapedData
  | false, false => .ignoreData
  | false, true => .ignoreEscapedData

/-- Whether the next payload byte is shielded: an ESC shields it unless it is shielded itself (R84). -/
def shieldsNext (shielded : Bool) (b : Byte) : Bool := !shielded && decide (b = Wire.ESC)

/-- A payload that finds no terminator does not find it in its first byte, nor in the others (R85). -/
theorem unescape_cons_eq_none {shielded : Bool} {b : Byte} {bs : List Byte}
    (h : unescape shielded (b :: bs) = none) :
    (shielded = false → b ≠ Wire.ETX) ∧ unescape (shieldsNext shielded b) bs = none := by
  cases shielded with
  | true => simpa [unescape, shieldsNext] using h
  | false =>
    by_cases hesc : b = Wire.ESC
    · subst hesc
      simpa [unescape, shieldsNext] using h
    · by_cases hetx : b = Wire.ETX
      · simp [unescape, hetx] at h
      · simpa [unescape, shieldsNext, hesc, hetx] using h

/-- A byte inside a payload that is no terminator completes nothing and stays inside (R148 to R151). -/
theorem decodeByte_payloadState {own shielded : Bool} {b : Byte} {s : State}
    (hd : s.dec_state = payloadState own shielded) (hb : shielded = false → b ≠ Wire.ETX) :
    (decodeByte b s).1 = .noop ∧
      (decodeByte b s).2.dec_state = payloadState own (shieldsNext shielded b) := by
  cases shielded with
  | true =>
    cases own with
    | true => rw [decodeByte_readEscapedData b s hd]; exact ⟨rfl, rfl⟩
    | false => rw [decodeByte_ignoreEscapedData b s hd]; exact ⟨rfl, rfl⟩
  | false =>
    have hetx := hb rfl
    cases own with
    | true =>
      rw [decodeByte_readData b s hd, inReadData, if_neg hetx]
      by_cases hesc : b = Wire.ESC
      · simp [hesc, shieldsNext, payloadState]
      · simp [hesc, shieldsNext, hd]
    | false =>
      rw [decodeByte_ignoreData b s hd, inIgnoreData, if_neg hetx]
      by_cases hesc : b = Wire.ESC <;> simp [hesc, shieldsNext, payloadState]

/-- Such bytes keep the decoder inside the payload, whatever their number (R259). -/
theorem decodeRun_unterminated (own : Bool) (bs : List Byte) {shielded : Bool} {s : State}
    (hd : s.dec_state = payloadState own shielded) (hbs : unescape shielded bs = none) :
    (∃ shielded', (decodeRun bs s).2.dec_state = payloadState own shielded') ∧
      ∀ k ∈ (decodeRun bs s).1, k = .noop := by
  induction bs generalizing shielded s with
  | nil => exact ⟨⟨shielded, hd⟩, by simp [decodeRun]⟩
  | cons b bs ih =>
    obtain ⟨hb, hrest⟩ := unescape_cons_eq_none hbs
    obtain ⟨hnoop, hnext⟩ := decodeByte_payloadState hd hb
    obtain ⟨hstate, hkinds⟩ := ih hnext hrest
    exact ⟨hstate, List.forall_mem_cons.mpr ⟨hnoop, hkinds⟩⟩

/-- Settles O20, for the node's own payload and for another's. -/
theorem lostTerminatorSwallowsInput : Obligations.LostTerminatorSwallowsInput := by
  refine fun bs s => ⟨?_, ?_⟩ <;> rintro (⟨hd, hbs⟩ | ⟨hd, hbs⟩)
  · exact (decodeRun_unterminated true bs (shielded := false) hd hbs).imp_left Bool.exists_bool.mp
  · exact (decodeRun_unterminated true bs (shielded := true) hd hbs).imp_left Bool.exists_bool.mp
  · exact (decodeRun_unterminated false bs (shielded := false) hd hbs).imp_left Bool.exists_bool.mp
  · exact (decodeRun_unterminated false bs (shielded := true) hd hbs).imp_left Bool.exists_bool.mp

/-! ## A resize inside a payload -/

/-- The internal operation is the decoder step, with its kind returned (R140). -/
theorem exec_decodeStep (b : Byte) (s : State) :
    exec (.decodeStep b) s = .next ((decodeByte b s).2.ret (.kind (decodeByte b s).1)) :=
  rfl

/-- A literal payload byte is stored, and the decoder stays in ReadData (R148). -/
theorem exec_decodeStep_literal {b : Byte} {s : State} (hd : s.dec_state = .readData) (hesc : b ≠ Wire.ESC)
    (hetx : b ≠ Wire.ETX) :
    exec (.decodeStep b) s = .next ((s.storePayload b).ret (.kind .noop)) := by
  rw [exec_decodeStep, decodeByte_readData b s hd, inReadData, if_neg hesc, if_neg hetx]

/-- Settles O52: the byte after the resize is stored against the new capacity. -/
theorem resizeInsidePayload : Obligations.ResizeInsidePayload := by
  intro i o b s t hinv hd hesc hetx hresize
  obtain ⟨-, rfl⟩ := (exec_resize_iff s t i o).mp hresize
  have hrx := bufferOk_truncate s.rx s.rx_cap _ _ hinv.rx_ok (min_le_right s.rx_cap (capOf o))
  refine ⟨_, exec_decodeStep_literal hd hesc hetx, by simpa using hd, fun hroom => ⟨?_, ?_⟩, fun hfull => ?_⟩
  · exact (read_storePayload b _ hrx s.rx_index).trans (if_pos ⟨hroom, rfl⟩)
  · exact (storePayload_rx_index b _).trans (if_pos hroom)
  · rw [storePayload_full (decide_eq_true hfull)]
    exact ⟨rfl, rfl⟩

end Sys2Proof.Machine
end

section
/-! A change of address inside a frame (O54). -/

namespace Sys2Proof.Machine

/-- The state with another node address. -/
def State.withAddress (s : State) (addr : Nat) : State := { s with node_address := addr }

section address
variable (s : State) (addr : Nat)

@[simp] theorem State.withAddress_dec_state : (s.withAddress addr).dec_state = s.dec_state := rfl

theorem storePayload_withAddress (b : Byte) :
    (s.withAddress addr).storePayload b = (s.storePayload b).withAddress addr := by
  unfold State.storePayload State.withAddress
  split_ifs <;> rfl

/-- Nothing but the address byte's place reads the address, and no place writes it (R140, R145). -/
theorem decodeByte_withAddress (b : Byte) (hd : s.dec_state ≠ .readAddress) :
    decodeByte b (s.withAddress addr) = ((decodeByte b s).1, (decodeByte b s).2.withAddress addr) := by
  cases h : s.dec_state <;>
    simp only [decodeByte, State.withAddress_dec_state, h, inScanPreamble1, inScanPreamble2, inScanPreamble3,
      inReadCommand, inIgnoreCommand, inReadData, inReadEscapedData, inIgnoreData, inIgnoreEscapedData,
      storePayload_withAddress]
  case readAddress => exact absurd h hd
  case ignoreCommand | readEscapedData | ignoreEscapedData => rfl
  all_goals split_ifs <;> rfl

end address

/-- Settles O54: the step under the other address is the step with that address put back. -/
theorem addressChangeInsideFrame : Obligations.AddressChangeInsideFrame := by
  intro addr b s hd
  refine ⟨_, exec_decodeStep b s, ?_⟩
  rw [← State.withAddress, exec_decodeStep, decodeByte_withAddress s addr b hd]
  rfl

end Sys2Proof.Machine
end

section
/-! A PROCESS that never returns (O39). -/

namespace Sys2Proof.Machine

/-- A PROCESS in progress hunts for a preamble mark, and at every iteration the same byte arrives, which is
none (R260). -/
structure HearsNoise (b : Byte) (s : State) : Prop where
  no_mark : b ≠ Wire.PRE
  active : s.proc_active = true
  hunting : s.dec_state = .scanPreamble1
  none_waiting : s.in_stream = []
  none_listed : s.arrivals = []
  steady : s.supply = .steady [b]

section noise
variable {b : Byte} {s : State}

/-- The byte leaves the decoder as it was (R142). -/
theorem HearsNoise.decodeByte_eq (h : HearsNoise b s) : decodeByte b s = (.noop, s) := by
  rw [decodeByte_scanPreamble1 b s h.hunting, inScanPreamble1, if_neg h.no_mark, State.goto_self h.hunting]

/-- An iteration reads the byte that has arrived and changes nothing but the result (R190). -/
theorem HearsNoise.step_eq (h : HearsNoise b s) : step s = .next (s.ret (.kind .noop)) := by
  obtain ⟨hdel, hadv⟩ := State.advance_steady h.none_listed h.steady
  have hin : s.in_stream ++ s.delivery = [b] := by rw [h.none_waiting, hdel]; rfl
  have hread : s.advance.setInput [] = s := by rw [hadv, State.setInput, ← h.none_waiting]
  have hbyte := h.decodeByte_eq
  rw [step_goes_on h.active hin (by rw [hread, hbyte]), hread, receiveByte_of_decodeByte s hbyte (by decide)]

/-- So does every number of iterations. -/
theorem HearsNoise.run_eq (h : HearsNoise b s) (n : Nat) :
    (Host.Core.run Sys2Proof.core n s : Answer) =
      .next { s with result := if n = 0 then s.result else .kind .noop } := by
  induction n generalizing s with
  | zero => rfl
  | succ n ih =>
    have hnext : HearsNoise b (s.ret (.kind .noop)) := { h with }
    rw [run_succ n s _ h.step_eq, ih hnext]
    simp [State.ret]

end noise

/-- A machine as after reset, in a PROCESS during which zero bytes arrive without end. -/
def noisyCall : State := { State.reset with proc_active := true, supply := .steady [0x00#8] }

theorem noisyCall_hearsNoise : HearsNoise 0x00#8 noisyCall := ⟨by decide, rfl, rfl, rfl, rfl, rfl⟩

theorem noisyCall_inv : noisyCall.Inv := { creationMeetsTheInvariants.2 with }

/-- Settles O39: a call that hears noise goes on, and there is one from a state in order. -/
theorem processNeedNotReturn : Obligations.ProcessNeedNotReturn :=
  ⟨fun _ _ hb hact hd hin harr hsup => HearsNoise.run_eq ⟨hb, hact, hd, hin, harr, hsup⟩,
    noisyCall, noisyCall_inv, rfl, rfl, fun n => ⟨_, noisyCall_hearsNoise.run_eq n, rfl⟩⟩

end Sys2Proof.Machine
end

section
/-! RESET and creation (O56, O57). -/

namespace Sys2Proof.Machine

/-- Settles O56: RESET completes with empty buffers, or is refused for its address, or else for a capacity. -/
theorem resetWritesTheBlock : Obligations.ResetWritesTheBlock := by
  intro addr inputBits outputBits s
  refine ⟨fun haddr htx hrx => ?_, fun haddr => ?_, fun haddr hcap => ?_⟩
  · have hfit := (capacitiesFit_iff s inputBits outputBits).mpr ⟨htx, hrx⟩
    exact ⟨_, (exec_reset_iff s _ addr inputBits outputBits).mpr ⟨haddr, hfit, rfl⟩,
      Memory.read_nil, Memory.read_nil, rfl, rfl⟩
  · exact (exec_reset_refused_iff s _ addr inputBits outputBits).mpr (.inl ⟨rfl, haddr⟩)
  · have hnofit : ¬capacitiesFit inputBits outputBits s = true :=
      Bool.eq_false_iff.mp (Bool.and_eq_false_iff.mpr hcap)
    exact (exec_reset_refused_iff s _ addr inputBits outputBits).mpr (.inr ⟨rfl, haddr, hnofit⟩)

/-- Settles O57: each element has its value by the definition of creation. -/
theorem creationLeavesTheResetValues : Obligations.CreationLeavesTheResetValues := fun _ _ _ _ =>
  ⟨rfl, rfl, rfl, Memory.read_nil, Memory.read_nil, rfl, rfl, rfl, rfl⟩

end Sys2Proof.Machine
end
